-- ==== Sys2Proof/Word.lean ====
section
/-! DEFINITION. The byte, and the two levels of the data line (00_scope.md R11, 42_transport_and_wire.md R113). -/

namespace Sys2Proof

/-- A byte, bits 7 (most significant) down to 0 (R11). -/
abbrev Byte := BitVec 8

/-- A level of the data line (R113: 1 = line high, 0 = line low). -/
inductive Level where
  | low
  | high
deriving DecidableEq, Repr, Inhabited

end Sys2Proof
end

