-- ==== Sys2Proof/Config.lean ====
section
/-! DEFINITION. The static parameters of one configured block (00_scope.md R5 to R9), the two named configurations of
R8, and the one free value of the model (assumption 17). -/

namespace Sys2Proof

/-- One row of the 3-byte table: exactly three bytes, first byte first (R52). -/
structure Row3 where
  b0 : Byte
  b1 : Byte
  b2 : Byte
deriving DecidableEq, Repr

/-- `TABLE3` (R6): a total function from 0..255 to rows of three bytes, held as data. Nothing is assumed of its
content (R74). -/
abbrev Table3 := Vector Row3 256

/-- `W` (R5), with the parameter that only `W = 3` reads (R6). No other width can be written down (D8). -/
inductive Width where
  /-- `W = 4`: the content of the table is fully defined (R69). -/
  | w4
  /-- `W = 3`: the content is the open parameter `TABLE3` (R6). -/
  | w3 (table3 : Table3)
deriving DecidableEq, Repr

/-- What the platform's data line does while nothing is shifted (R116, R148). It belongs to the transport, not to the
block (R26). -/
inductive IdleRule where
  /-- "SPI idle level equals the most-significant bit of the last transmitted byte" (R116): the platforms the source
  has in mind. -/
  | msbOfLastByte
  /-- Low "for some other reason" (R148). -/
  | low
  /-- "A platform that idles high" (R148). -/
  | high
  /-- A platform "that holds the level of the last bit shifted" (R148). -/
  | lastBit
  /-- "Some other rule", of which "the source gives no guarantee" (R116): a free value each time. -/
  | other
deriving DecidableEq, Repr

/-- The configuration of one instance (R5 to R8). It cannot change while the instance exists (R21, R59). -/
structure Cfg where
  width  : Width
  fSpiHz : Nat
  nReset : Nat
  idle   : IdleRule
deriving DecidableEq, Repr

/-- `W`, the number of output bytes per input byte (R5). -/
def Width.bytes : Width → Nat
  | .w4 => 4
  | .w3 _ => 3

/-- `W` of a configuration. -/
def Cfg.w (c : Cfg) : Nat := c.width.bytes

/-- `CFG_REF` (R8): the nominal clock and the smallest count the formula admits. The idle rule is the model's choice
(assumption 17: DESIGN CHOICE). -/
def cfgRef : Cfg := { width := .w4, fSpiHz := 3800000, nReset := 143, idle := .msbOfLastByte }

/-- `CFG_SRC` (R8): the source's hardcoded count, at the largest clock for which the formula admits it. -/
def cfgSrc : Cfg := { width := .w4, fSpiHz := 3733333, nReset := 140, idle := .msbOfLastByte }

/-- FREE VALUE (assumption 17): the level a platform with the idle rule `other` leaves on the line, draw by draw. It
has no body, so nothing can be proved of it. -/
opaque Config.freeIdle : Nat → Level

end Sys2Proof
end

