-- ==== Sys2Proof/Syntax.lean ====
section
/-! DEFINITION. The operations of the block: one constructor of `Instr` per row of spec/opcode_table.json (R2, R60), the
colour (R12), the port an operation arrives on, and the reasons for which bytes are not an operation's format. -/

namespace Sys2Proof

/-- A colour: three independent 8-bit channels, read by name (R11, R12). -/
structure Color where
  r : Byte
  g : Byte
  b : Byte
deriving DecidableEq, Repr

/-- The fifteen operations, in the table's order (R60). -/
inductive Instr where
  /-- `SYM(b)`: encode one bit (R65). -/
  | sym (b : Bool)
  /-- `ENCN(n)`: encode one nibble (R66). -/
  | encn (n : BitVec 4)
  /-- `ENCB(v)`: encode one byte (R67). -/
  | encb (v : Byte)
  /-- `ROW(v)`: the output-byte sequence of one input byte (R69). -/
  | row (v : Byte)
  /-- `TBUILD`: construct the table (R70). -/
  | tbuild
  /-- `LOOKUP(v)`: read one row of the table (R71). -/
  | lookup (v : Byte)
  /-- `DECODE(s)`: the checker, the inverse of `ROW` for `W = 4` (R72). -/
  | decode (s : List Byte)
  /-- `PACK(c)`: build one colour frame in `BUF` (R84). -/
  | pack (c : Color)
  /-- `EMITC()`: send the colour frame (R85). -/
  | emitc
  /-- `EMITR()`: send the reset frame (R86). -/
  | emitr
  /-- `WRITE(colors)`: the operation the host invokes (R83). `ended` says whether the host ends the sequence after
  these colours; `false` is a sequence the host has not (yet) ended (R100; assumption 14). -/
  | write (colors : List Color) (ended : Bool)
  /-- Host token `COLOR(c)` (R55, R91). -/
  | tokenColor (c : Color)
  /-- Host token `END` (R55, R92): its low 24 bits are ignored, so it has no operand. -/
  | tokenEnd
  /-- `TXWRITE(s)`: hand one buffer to the transport (R107). -/
  | txwrite (s : List Byte)
  /-- `SHIFT(x)`: serialise one byte (R113). -/
  | shift (x : Byte)
deriving DecidableEq, Repr

/-- Where an operation arrives. "None is selected by an opcode" (R60): the port selects the operation, and only on the
token port does a bit of the encoding select between two (R60, R91, R92). Assumptions 7 and 15. -/
inductive Port where
  | sym | encn | encb | row | tbuild | lookup | decode | pack | emitc | emitr | write | token | txwrite | shift
deriving DecidableEq, Repr

/-- The port of an operation. -/
def Instr.port : Instr → Port
  | .sym _ => .sym
  | .encn _ => .encn
  | .encb _ => .encb
  | .row _ => .row
  | .tbuild => .tbuild
  | .lookup _ => .lookup
  | .decode _ => .decode
  | .pack _ => .pack
  | .emitc => .emitc
  | .emitr => .emitr
  | .write _ _ => .write
  | .tokenColor _ => .token
  | .tokenEnd => .token
  | .txwrite _ => .txwrite
  | .shift _ => .shift

/-- Why bytes are not the format of the operation on whose port they stand. -/
inductive Reject where
  /-- Not the number of bytes the format has (R59). -/
  | wrongLength
  /-- A 4-bit group that is neither `0100` nor `0111` (R48, R62). -/
  | notASymbol
  /-- A token whose bits above bit 24 are not all zero (R55 gives a token 25 bits). -/
  | aboveTheToken
  /-- Tokens after `END` in one colour sequence (R90). -/
  | afterEnd
  /-- A reset-frame byte other than `0x00` (R54, R62). -/
  | notZero
deriving DecidableEq, Repr

end Sys2Proof
end

