-- ==== Sys2Proof/WellFormed.lean ====
section
/-! DEFINITION. Which operations have operands the block itself produces (R40, R61, R107). -/

namespace Sys2Proof

/-- No input is illegal (R61). The one operand the spec bounds is `TXWRITE`'s buffer: "`len(s)` is `3 * W` or
`N_RESET`" (R107), "no other sizes occur" (R40). A transport takes any byte list (R108), so `exec` runs an ill-formed
`TXWRITE` as well (assumption 18). -/
def Instr.wf (c : Cfg) : Instr → Bool
  | .sym _ => true
  | .encn _ => true
  | .encb _ => true
  | .row _ => true
  | .tbuild => true
  | .lookup _ => true
  | .decode _ => true
  | .pack _ => true
  | .emitc => true
  | .emitr => true
  | .write _ _ => true
  | .tokenColor _ => true
  | .tokenEnd => true
  | .txwrite s => s.length == 3 * c.w || s.length == c.nReset
  | .shift _ => true

end Sys2Proof
end

