-- ==== Sys2Proof/Decode.lean ====
section
/-! DEFINITION. Decoding and encoding of the operations, from the formats of 30_encoding.md (R48 to R55) and the
patterns of spec/opcode_table.json. Bytes stand first byte first; a word of several bytes has its most significant byte
first (R35), and a format narrower than its bytes stands in their low bits (assumption 16). -/

namespace Sys2Proof

/-! ## The formats -/

/-- The byte `01AA01BB` that holds two input bits, the first in its high half (R51: the four values a row byte has). -/
def pairByte (p : BitVec 2) : Byte :=
  match p with
  | 0b00#2 => 0x44#8
  | 0b01#2 => 0x47#8
  | 0b10#2 => 0x74#8
  | 0b11#2 => 0x77#8

/-- The two input bits a byte `01AA01BB` holds; none for a byte that is not two symbols (R51, R62). -/
def unpairByte (x : Byte) : Option (BitVec 2) :=
  if x = 0x44#8 then some 0b00#2
  else if x = 0x47#8 then some 0b01#2
  else if x = 0x74#8 then some 0b10#2
  else if x = 0x77#8 then some 0b11#2
  else none

/-- The 2-byte group `01aa01bb01cc01dd` of a nibble (R49). -/
def groupBytes (n : BitVec 4) : List Byte :=
  [pairByte (n.extractLsb' 2 2), pairByte (n.extractLsb' 0 2)]

/-- The 4-byte word `01AA01BB01CC01DD01EE01FF01GG01HH` of a byte (R50, R51). -/
def wordBytes (v : Byte) : List Byte :=
  [pairByte (v.extractLsb' 6 2), pairByte (v.extractLsb' 4 2),
   pairByte (v.extractLsb' 2 2), pairByte (v.extractLsb' 0 2)]

/-- The nibble of a group. -/
def ungroup (x0 x1 : Byte) : Except Reject (BitVec 4) :=
  match unpairByte x0, unpairByte x1 with
  | some p0, some p1 => .ok (p0 ++ p1)
  | _, _ => .error .notASymbol

/-- The byte of a word. -/
def unword (x0 x1 x2 x3 : Byte) : Except Reject Byte :=
  match ungroup x0 x1, ungroup x2 x3 with
  | .ok n1, .ok n0 => .ok (n1 ++ n0)
  | _, _ => .error .notASymbol

/-- A host token (R55): `end` in bit 24, `r` in bits 23..16, `g` in bits 15..8, `b` in bits 7..0. -/
def colorToken (c : Color) : List Byte := [0x00#8, c.r, c.g, c.b]

/-- The token `END` (R55), its ignored bits zero. -/
def endToken : List Byte := [0x01#8, 0x00#8, 0x00#8, 0x00#8]

/-- A token's operation: bit 24 selects (R60, R91, R92). -/
def untoken (x r g b : Byte) : Except Reject Instr :=
  if x = 0x00#8 then .ok (.tokenColor ⟨r, g, b⟩)
  else if x = 0x01#8 then .ok .tokenEnd
  else .error .aboveTheToken

/-- The tokens of a colour sequence (R83, R55): `COLOR` tokens, then perhaps `END`, and nothing after `END`. -/
def unsequence : List Byte → Except Reject (List Color × Bool)
  | [] => .ok ([], false)
  | x :: r :: g :: b :: rest =>
    match untoken x r g b with
    | .ok (.tokenColor c) =>
      match unsequence rest with
      | .ok (cs, ended) => .ok (c :: cs, ended)
      | .error e => .error e
    | .ok .tokenEnd => if rest = [] then .ok ([], true) else .error .afterEnd
    | .ok _ => .error .aboveTheToken
    | .error e => .error e
  | _ => .error .wrongLength

/-! ## The decoder and the encoder -/

/-- The operation whose format the bytes on a port are; total, every other byte list rejected by name. -/
def decode (p : Port) (bytes : List Byte) : Except Reject Instr :=
  match p, bytes with
  | .sym, [x] =>
    if x = 0x04#8 then .ok (.sym false) else if x = 0x07#8 then .ok (.sym true) else .error .notASymbol
  | .encn, [x0, x1] => (ungroup x0 x1).map .encn
  | .encb, [x0, x1, x2, x3] => (unword x0 x1 x2 x3).map .encb
  | .row, [x0, x1, x2, x3] => (unword x0 x1 x2 x3).map .row
  | .tbuild, [x0, x1, x2, x3] => (unword x0 x1 x2 x3).map fun _ => .tbuild
  | .lookup, [v] => .ok (.lookup v)
  | .decode, s => .ok (.decode s)
  | .pack, [g0, g1, g2, g3, r0, r1, r2, r3, b0, b1, b2, b3] =>
    match unword g0 g1 g2 g3, unword r0 r1 r2 r3, unword b0 b1 b2 b3 with
    | .ok g, .ok r, .ok b => .ok (.pack ⟨r, g, b⟩)
    | _, _, _ => .error .notASymbol
  | .emitc, [g0, g1, g2, g3, r0, r1, r2, r3, b0, b1, b2, b3] =>
    match unword g0 g1 g2 g3, unword r0 r1 r2 r3, unword b0 b1 b2 b3 with
    | .ok _, .ok _, .ok _ => .ok .emitc
    | _, _, _ => .error .notASymbol
  | .emitr, [x] => if x = 0x00#8 then .ok .emitr else .error .notZero
  | .write, s => (unsequence s).map fun q => .write q.1 q.2
  | .token, [x, r, g, b] => untoken x r g b
  | .txwrite, s => .ok (.txwrite s)
  | .shift, [x] => .ok (.shift x)
  | _, _ => .error .wrongLength

/-- The bytes of an operation, in the table's format of it. A field that is no operand (the row index of `TBUILD`, the
content of `BUF` in `EMITC`, the ignored bits of `END`) is written as zero bits (assumption 16). -/
def encode : Instr → List Byte
  | .sym b => [if b then 0x07#8 else 0x04#8]
  | .encn n => groupBytes n
  | .encb v => wordBytes v
  | .row v => wordBytes v
  | .tbuild => wordBytes 0#8
  | .lookup v => [v]
  | .decode s => s
  | .pack c => wordBytes c.g ++ wordBytes c.r ++ wordBytes c.b
  | .emitc => wordBytes 0#8 ++ wordBytes 0#8 ++ wordBytes 0#8
  | .emitr => [0x00#8]
  | .write colors ended => colors.flatMap colorToken ++ if ended then endToken else []
  | .tokenColor c => colorToken c
  | .tokenEnd => endToken
  | .txwrite s => s
  | .shift x => [x]

/-! ## The table's words -/

/-- The bytes of a table word of `nbits` bits: whole bytes, the most significant first (R35). -/
def tableBytes (nbits w : Nat) : List Byte :=
  let n := (nbits + 7) / 8
  (List.range n).map fun i => BitVec.ofNat 8 (w >>> (8 * (n - 1 - i)))

/-- The port on which the model takes a table word. Several rows share one pattern and no opcode tells them apart
(R60), so the narrowest pattern that fits comes first, then the table's order (assumption 15). A length
the table does not have goes where two bytes are the format, and any other length is rejected there. -/
def tablePort (bytes : List Byte) : Port :=
  match bytes with
  | [x] => if x = 0x00#8 then .emitr else if x = 0x04#8 ∨ x = 0x07#8 then .sym else .lookup
  | [x0, _, _, _] => if x0.toNat ≤ 1 then .token else .encb
  | [_, _, _, _, _, _, _, _, _, _, _, _] => .pack
  | _ => .encn

/-- The operation the decoder reads from a table word. -/
def decodeTableWord (nbits w : Nat) : Option Instr :=
  match decode (tablePort (tableBytes nbits w)) (tableBytes nbits w) with
  | .ok i => some i
  | .error _ => none

end Sys2Proof
end

