-- ==== Sys2Proof/Machine/Params.lean ====
section
/-! DEFINITION. Which configurations are configurations of this hardware (00_scope.md R5 to R8, 70_reset_and_hazards.md
R145). -/

namespace Sys2Proof

/-- A configuration is well-formed only if `80000 * N_RESET >= 3 * F_SPI_HZ`, both positive (R7, R8). That `W` is 3 or
4, and that `W = 3` has its `TABLE3`, the type `Width` says already. -/
def Cfg.wf (c : Cfg) : Bool :=
  decide (0 < c.fSpiHz) && decide (0 < c.nReset) && decide (3 * c.fSpiHz ≤ 80000 * c.nReset)

/-- The smallest admissible `N_RESET` for a clock: `(3 * F_SPI_HZ + 79999) div 80000` (R8, R79). -/
def minReset (fSpiHz : Nat) : Nat := (3 * fSpiHz + 79999) / 80000

/-- Why a set of parameters is no configuration of this hardware. -/
inductive CfgError where
  /-- `W` is not 3 or 4 (R5). -/
  | width
  /-- `W = 3` and no `TABLE3` is supplied (R6, R145). -/
  | noTable3
  /-- `F_SPI_HZ` is not positive (R7). -/
  | clock
  /-- `N_RESET` is zero or fails the inequality of R8. -/
  | resetCount
deriving DecidableEq, Repr

/-- Build a configuration from raw parameters, or refuse it by name (R5, R6, R8; U19). `TABLE3` is "read only when
`W = 3`". -/
def Cfg.build (w fSpiHz nReset : Nat) (table3 : Option Table3) (idle : IdleRule) : Except CfgError Cfg :=
  let checked (width : Width) : Except CfgError Cfg :=
    if fSpiHz = 0 then .error .clock
    else if nReset = 0 ∨ 80000 * nReset < 3 * fSpiHz then .error .resetCount
    else .ok { width := width, fSpiHz := fSpiHz, nReset := nReset, idle := idle }
  if w = 4 then checked .w4
  else if w = 3 then
    match table3 with
    | some t => checked (.w3 t)
    | none => .error .noTable3
  else .error .width

end Sys2Proof
end

