-- ==== Sys2Proof/Machine/State.lean ====
section
/-! DEFINITION. The state of the block and of the two agents outside it, as plain data (10_state.md), what can stop a
step, and the state after reset (R29). -/

namespace Sys2Proof.Machine

/-- The sequencer's position (R17). -/
inductive Phase where
  /-- No `WRITE` is in progress. -/
  | idle
  /-- A `WRITE` is in progress and `FW` has asked the host for the next element. -/
  | fetch
  /-- The colour frame has been handed to the transport; `FW` waits. -/
  | txc
  /-- The reset frame has been handed to the transport; `FW` waits. -/
  | txr
deriving DecidableEq, Repr

/-- The error type of the one instance behind the host's interface. Everything below takes `E`, the transport's error type,
as a parameter (R9), of which this type is only the default (assumption 2). -/
structure TransportError where
  tag : Nat
deriving DecidableEq, Repr

/-- `Ok` or `Err(e)`: a transport's answer (R56), and the result of a `WRITE` (R57). -/
inductive Answer (E : Type := TransportError) where
  | ok
  | err (e : E)
deriving DecidableEq, Repr

/-- An answer the transport will give, with what it did to the wire: on `Err` the first `sent` bytes of the request
were transmitted, a draw the block does not choose (R109 to R111; assumptions 8 and 9). -/
inductive Reply (E : Type := TransportError) where
  | ok
  | err (e : E) (sent : Nat)
deriving DecidableEq, Repr

/-- An entry `TX(s, a)` of `TRACE` (R22). -/
structure TxEntry (E : Type := TransportError) where
  request : List Byte
  answer  : Answer E
deriving DecidableEq, Repr

/-- An event from `FW` to the host (R87). -/
inductive HostEvent (E : Type := TransportError) where
  /-- `NEXT`: request the next element of the sequence. -/
  | next
  /-- `Done(res)`: the `WRITE` has ended. -/
  | done (res : Answer E)
deriving DecidableEq, Repr

/-- What an operation returned, one constructor per output format of R60 (assumption 12). -/
inductive OpResult (E : Type := TransportError) where
  | none
  | symbol (s : BitVec 4)
  | group (g : BitVec 16)
  | word (w : BitVec 32)
  | row (bytes : List Byte)
  | table (rows : List (List Byte))
  | decoded (v : Option Byte)
  | levels (l : List Level)
  | answer (a : Answer E)
deriving DecidableEq, Repr

/-- An event or operation request that waits in the inbox: its port and its bytes (assumption 7). -/
structure Msg where
  port  : Port
  bytes : List Byte
deriving DecidableEq, Repr

/-- The block has no fault: "There is no illegal-operation fault, no address fault, no alignment fault and no arithmetic
fault" (R122). `TransportFailure` is no fault of the machine: it ends a `WRITE` in a next state (R121). No constructor,
so nothing raises one; safe. -/
inductive Fault where
deriving DecidableEq, Repr

/-- Why a step has no move. -/
inductive Refusal where
  /-- Raised by `exec`'s arm of an operation that has no meaning yet; safe. -/
  | notModelled (mnemonic : String)
  /-- Raised by `step`: "A model refuses a configuration that fails the inequality" (R8); safe. -/
  | configuration
  /-- Raised by `step`: the head of the inbox is not in its port's format (R48 to R55, R62); safe. -/
  | undecodable (why : Reject)
  /-- Raised by `WRITE` outside `IDLE`: "there is no `START` step: the machine has no move for it" (R89, D4); safe. -/
  | startNotIdle
  /-- Raised by a host token, `EMITC` or `EMITR` outside `FETCH`: no such transition exists (R97, U11); safe. -/
  | notFetching
  /-- Raised by an operation that hands a request to the transport while one is outstanding (R43, R124); safe. -/
  | requestOutstanding
deriving DecidableEq, Repr

/-- The state. `cfg` is the instance's constants (R21); `phase`, `cin`, `buf` are the block's state (R88); `line` is the
data line's level while nothing is shifted (R26, R29); `trace`, `wire`, `k` are the spec's ghosts (R22 to R24); the rest
is the model's own: the events raised to the host, the last operation's result, the transport's outstanding request, the
two outside agents' pending inputs, and the counter of free values (INVENTORY.md). `E` is the transport's error type
(R9). -/
structure State (E : Type := TransportError) where
  cfg     : Cfg
  phase   : Phase
  cin     : Color
  buf     : List Byte
  line    : Level
  trace   : List (TxEntry E)
  wire    : List Byte
  k       : Nat
  hostOut : List (HostEvent E)
  res     : OpResult E
  req     : Option (List Byte)
  inbox   : List Msg
  replies : List (Reply E)
  draw    : Nat
deriving DecidableEq, Repr

/-- The state after reset (R29, R140): `IDLE`, no result pending, the ghosts empty, the line low, the transport ready,
nothing asked by the host. `CFG_REF` is the instance (assumption 1: DESIGN CHOICE). `CIN` and `BUF` have "no value" in
the spec; the model names zero (assumptions 5 and 6: DESIGN CHOICE). -/
def State.resetOf (E : Type) : State E where
  cfg     := cfgRef
  phase   := .idle
  cin     := ⟨0#8, 0#8, 0#8⟩
  buf     := List.replicate 12 0#8
  line    := .low
  trace   := []
  wire    := []
  k       := 0
  hostOut := []
  res     := .none
  req     := none
  inbox   := []
  replies := []
  draw    := 0

/-- The state after reset behind the host's interface. -/
def State.reset : State := State.resetOf TransportError

end Sys2Proof.Machine
end

