-- ==== Sys2Proof/Machine/Flags.lean ====
section
/-! DEFINITION. The block has "no flags, no condition codes and no sticky status register" (10_state.md R20). What an
operation reports instead is the outcome of a transport request; this file reads it. -/

namespace Sys2Proof.Machine

/-- The answer a reply gives, "forwarded unchanged" (R112). -/
def Reply.answer {E : Type} : Reply E → Answer E
  | .ok => .ok
  | .err e _ => .err e

/-- The bytes of a request that reached the wire: all of them on `Ok` (R110), some first part of them on `Err`
(R111). -/
def Reply.transmitted {E : Type} (request : List Byte) : Reply E → List Byte
  | .ok => request
  | .err _ sent => request.take sent

end Sys2Proof.Machine
end

