-- ==== Sys2Proof/Machine/Operands.lean ====
section
/-! DEFINITION. The operand forms of the operations: bits, nibbles, the bytes of a word, byte lists of zeros (00_scope.md
R11, 20_memory.md R34, R35). -/

namespace Sys2Proof.Machine

/-- `bit(v, i)` of a nibble (R11). -/
def nibbleBit (n : BitVec 4) (i : Nat) : Bool := n.getLsbD i

/-- `bit(v, i)` of a byte (R11). -/
def byteBit (v : Byte) (i : Nat) : Bool := v.getLsbD i

/-- `v[7:4]`, taken first (R34). -/
def hiNibble (v : Byte) : BitVec 4 := v.extractLsb' 4 4

/-- `v[3:0]` (R34). -/
def loNibble (v : Byte) : BitVec 4 := v.extractLsb' 0 4

/-- The four bytes of a word, most significant first (R35). -/
def wordToBytes (w : BitVec 32) : List Byte :=
  [w.extractLsb' 24 8, w.extractLsb' 16 8, w.extractLsb' 8 8, w.extractLsb' 0 8]

/-- The three bytes of a 3-byte row, first byte first (R52). -/
def row3ToBytes (t : Row3) : List Byte := [t.b0, t.b1, t.b2]

/-- `zeros(n)` (R11); with `N_RESET`, the constant source `ZSRC` (R25, R54). -/
def zeros (n : Nat) : List Byte := List.replicate n 0x00#8

/-- A bit as a line level (R113: 1 = line high, 0 = line low). -/
def levelOf (b : Bool) : Level := if b then .high else .low

end Sys2Proof.Machine
end

