-- ==== Sys2Proof/Machine/Pattern.lean ====
section
/-! DEFINITION. The NRZ-to-SPI bit-pattern generator `ENC`, the table `TABLE` it fills, and the checker `DECODE`, as pure
functions (40_encoder.md R65 to R72), and the line levels of a byte (42_transport_and_wire.md R113). -/

namespace Sys2Proof.Machine

/-- `SYM(b)` (R65, conflict C1: the literals). -/
def symbol (b : Bool) : BitVec 4 := if b then 0b0111#4 else 0b0100#4

/-- `ENCN(n)` (R66): the four symbols, most significant bit first. -/
def group (n : BitVec 4) : BitVec 16 :=
  symbol (nibbleBit n 3) ++ symbol (nibbleBit n 2) ++ symbol (nibbleBit n 1) ++ symbol (nibbleBit n 0)

/-- `ENCB(v)` (R67): the two groups, high nibble first. -/
def word (v : Byte) : BitVec 32 := group (hiNibble v) ++ group (loNibble v)

/-- `ROW(v)` (R69): the word's bytes for `W = 4`, the open parameter `TABLE3(v)` for `W = 3`. -/
def row (c : Cfg) (v : Byte) : List Byte :=
  match c.width with
  | .w4 => wordToBytes (word v)
  | .w3 t => row3ToBytes (t[v.toNat]'v.isLt)

/-- `TBUILD` (R70): `TABLE[v] = ROW(v)` for `v` in 0..255. The table is a constant of the instance (R33, R88;
assumption 3). -/
def tbuild (c : Cfg) : List (List Byte) :=
  (List.range 256).map fun v => row c (BitVec.ofNat 8 v)

/-- `MemRead(addr, n)` over the flat table space, byte `j` of row `v` at `v * W + j` (R32). Any call that is not
`MemRead(v * W, W)` with `v` in 0..255 is refused (R39): it answers none. -/
def memRead (c : Cfg) (addr n : Nat) : Option (List Byte) :=
  if n = c.w ∧ addr % c.w = 0 ∧ addr + n ≤ 256 * c.w then
    some (((tbuild c).flatten.drop addr).take n)
  else none

/-- `LOOKUP(v)` (R71): `MemRead(v * W, W)`. The read is never refused, since every 8-bit `v` is a row (R71). It is `ROW(v)`
at every time, for the table is constant (R80; the forms R80 names are in Machine/TableForms.lean). -/
def lookup (c : Cfg) (v : Byte) : List Byte := (memRead c (v.toNat * c.w) c.w).getD []

/-- `DSYM(q)` (R72). -/
def dsym (q : BitVec 4) : Option Bool :=
  if q = 0b0100#4 then some false else if q = 0b0111#4 then some true else none

/-- One turn of `DECODE`'s loop: `v = (v << 2) | (hi << 1) | lo` (R72). -/
def decodeByte (v x : Byte) : Option Byte :=
  match dsym (x.extractLsb' 4 4), dsym (x.extractLsb' 0 4) with
  | some hi, some lo =>
    some ((v <<< 2) ||| ((BitVec.ofBool hi).zeroExtend 8 <<< 1) ||| (BitVec.ofBool lo).zeroExtend 8)
  | _, _ => none

/-- `DECODE(s)` (R72): none for a list whose length is not 4 and for any group that is not a symbol. -/
def decodeRow (s : List Byte) : Option Byte :=
  match s with
  | [s0, s1, s2, s3] =>
    (decodeByte 0#8 s0).bind fun v1 => (decodeByte v1 s1).bind fun v2 =>
      (decodeByte v2 s2).bind fun v3 => decodeByte v3 s3
  | _ => none

/-- The bytes of one colour frame: the green row, then red, then blue (R36, R53, R84). -/
def frame (c : Cfg) (col : Color) : List Byte := lookup c col.g ++ lookup c col.r ++ lookup c col.b

/-- `SHIFT(x)` (R113): eight line levels in time order, bit 7 first. -/
def shiftLevels (x : Byte) : List Level :=
  [levelOf (byteBit x 7), levelOf (byteBit x 6), levelOf (byteBit x 5), levelOf (byteBit x 4),
   levelOf (byteBit x 3), levelOf (byteBit x 2), levelOf (byteBit x 1), levelOf (byteBit x 0)]

/-- The waveform of a byte list: the concatenation of `SHIFT(x)` over its bytes, in order (R115). -/
def waveform (bytes : List Byte) : List Level := bytes.flatMap shiftLevels

end Sys2Proof.Machine
end

