-- ==== Sys2Proof/Machine/Ops.lean ====
section
/-! DEFINITION. The named operations over the state: delivering a result, handing a request to the transport, entering
`FETCH`, ending a `WRITE`, `TransportFailure`, and what a transport's answer does (41_frame_writer.md R89 to R96,
42_transport_and_wire.md R107 to R111, 60_exceptions.md R121). -/

namespace Sys2Proof.Machine

variable {E : Type}

/-- The operation returns `r`, and changes nothing else (R75; assumption 12). -/
def putResult (r : OpResult E) (s : State E) : State E := { s with res := r }

/-- Hand `bytes` to the transport and move to `phase`; at most one request is outstanding (R107, R124). -/
def issue (bytes : List Byte) (phase : Phase) (s : State E) : Host.Outcome (State E) Fault Refusal :=
  match s.req with
  | none => .next { s with req := some bytes, phase := phase }
  | some _ => .refused .requestOutstanding

/-- Hand `bytes` to the transport from `FETCH`, the only phase from which the sequencer issues a request (R97, R141). -/
def issueInFetch (bytes : List Byte) (phase : Phase) (s : State E) : Host.Outcome (State E) Fault Refusal :=
  match s.phase with
  | .fetch => issue bytes phase s
  | .idle => .refused .notFetching
  | .txc => .refused .notFetching
  | .txr => .refused .notFetching

/-- `PACK(c)`: all `3 * W` bytes of `BUF` are written, nothing is left of the colour before (R84). -/
def packBuf (c : Color) (s : State E) : State E := { s with buf := frame s.cfg c }

/-- `PHASE <- FETCH`, which raises `NEXT` (R87, R89, R90, R93). -/
def enterFetch (s : State E) : State E :=
  { s with phase := .fetch, hostOut := s.hostOut ++ [.next] }

/-- A host token, as the inbox holds it. -/
def Msg.isToken (m : Msg) : Bool := m.port == .token

/-- `Done(res)`; `PHASE <- IDLE` (R95, R96). The elements of this `WRITE` that the host was never asked for go with it
(R90, R104; assumption 13). -/
def deliverDone (res : Answer E) (s : State E) : State E :=
  { s with phase := .idle, hostOut := s.hostOut ++ [.done res], inbox := s.inbox.dropWhile Msg.isToken }

/-- `raise TransportFailure(e)` (R121): deliver `Done(Err(e))`, set `PHASE <- IDLE`, make no further request. `CIN` and
`BUF` are left as they are. -/
def raiseTransportFailure (e : E) (s : State E) : State E := deliverDone (.err e) s

/-- The level the data line is left at after `sent` was shifted out (R26, R116, R148). -/
def idleAfter (s : State E) (sent : List Byte) : Level :=
  match sent.getLast? with
  | none => s.line
  | some x =>
    match s.cfg.idle with
    | .msbOfLastByte => levelOf (byteBit x 7)
    | .low => .low
    | .high => .high
    | .lastBit => levelOf (byteBit x 0)
    | .other => Config.freeIdle s.draw

/-- The transport's side of an answer to the request `bytes`: the entry of `TRACE` (R22, R93 to R95), the bytes on the
wire (R110, R111), and the answer returned (R107). The draw of the free value is used up. -/
def settle (bytes : List Byte) (a : Reply E) (s : State E) : State E :=
  { s with
    trace := s.trace ++ [⟨bytes, a.answer⟩]
    wire  := s.wire ++ a.transmitted bytes
    line  := idleAfter s (a.transmitted bytes)
    draw  := s.draw + 1
    req   := none
    res   := .answer a.answer }

/-- The sequencer's side of an answer (R93, R94, R95). In `IDLE` and `FETCH` the sequencer waits for no answer, so one
to a `TXWRITE` of its own moves nothing (assumption 18). -/
def advance (a : Answer E) (s : State E) : State E :=
  match s.phase, a with
  | .txc, .ok => enterFetch { s with k := s.k + 1 }
  | .txc, .err e => raiseTransportFailure e s
  | .txr, .ok => deliverDone .ok s
  | .txr, .err e => raiseTransportFailure e s
  | .idle, _ => s
  | .fetch, _ => s

/-- The step of a machine with an outstanding request: take the transport's answer, or hold while there is none
(R44, R88, R100). -/
def awaitAnswer (bytes : List Byte) (s : State E) : State E :=
  match s.replies with
  | [] => s
  | a :: rest => advance a.answer (settle bytes a { s with replies := rest })

/-- `START`'s effect on the state: the ghosts cleared, then `FETCH` (R89). The host's events are the model's own ghost
and start anew with them (assumption 11). -/
def start (s : State E) : State E :=
  enterFetch { s with trace := [], wire := [], k := 0, hostOut := [] }

/-- The tokens with which the host answers the `NEXT` requests of a `WRITE`, in sequence order (R83, R87, R99). -/
def hostTokens (colors : List Color) (ended : Bool) : List Msg :=
  colors.map (fun c => ⟨.token, encode (.tokenColor c)⟩) ++ if ended then [⟨.token, encode .tokenEnd⟩] else []

end Sys2Proof.Machine
end

