-- ==== Sys2Proof/Machine/Encoder.lean ====
section
/-! DEFINITION. The meanings of the encoder family: `SYM`, `ENCN`, `ENCB`, `ROW`, `TBUILD`, `LOOKUP`, `DECODE`
(40_encoder.md). Each is a pure function: it "reads no state but the table, writes no state, sets no flags and raises no
exception"; the model delivers its result in `res` (assumption 12). -/

namespace Sys2Proof.Machine

variable {E : Type}

/-- `SYM(b)` (R65). -/
def execSym (b : Bool) (s : State E) : Host.Outcome (State E) Fault Refusal :=
  .next (putResult (.symbol (symbol b)) s)

/-- `ENCN(n)` (R66). -/
def execEncn (n : BitVec 4) (s : State E) : Host.Outcome (State E) Fault Refusal :=
  .next (putResult (.group (group n)) s)

/-- `ENCB(v)` (R67). -/
def execEncb (v : Byte) (s : State E) : Host.Outcome (State E) Fault Refusal :=
  .next (putResult (.word (word v)) s)

/-- `ROW(v)` (R69). -/
def execRow (v : Byte) (s : State E) : Host.Outcome (State E) Fault Refusal :=
  .next (putResult (.row (row s.cfg v)) s)

/-- `TBUILD` (R70): the content of `TABLE`, which is there already (R143). -/
def execTbuild (s : State E) : Host.Outcome (State E) Fault Refusal :=
  .next (putResult (.table (tbuild s.cfg)) s)

/-- `LOOKUP(v)` (R71). -/
def execLookup (v : Byte) (s : State E) : Host.Outcome (State E) Fault Refusal :=
  .next (putResult (.row (lookup s.cfg v)) s)

/-- `DECODE(s)` (R72). -/
def execDecode (bytes : List Byte) (s : State E) : Host.Outcome (State E) Fault Refusal :=
  .next (putResult (.decoded (decodeRow bytes)) s)

end Sys2Proof.Machine
end

