-- ==== Sys2Proof/Machine/FrameWriter.lean ====
section
/-! DEFINITION. The meanings of the frame-writer family: `PACK`, `EMITC`, `EMITR`, `WRITE` and the two host tokens
(41_frame_writer.md). -/

namespace Sys2Proof.Machine

variable {E : Type}

/-- `PACK(c)` (R84). -/
def execPack (c : Color) (s : State E) : Host.Outcome (State E) Fault Refusal := .next (packBuf c s)

/-- `EMITC()` (R85): hand `BUF` to the transport and wait in `TXC`; the transport's answer is what the step after it
takes (R93, R94). -/
def execEmitc (s : State E) : Host.Outcome (State E) Fault Refusal := issueInFetch s.buf .txc s

/-- `EMITR()` (R86): hand the reset frame to the transport and wait in `TXR`; the answer is what the step after it takes
(R95). -/
def execEmitr (s : State E) : Host.Outcome (State E) Fault Refusal := issueInFetch (zeros s.cfg.nReset) .txr s

/-- `WRITE(colors)` (R83, R87): step `START` (R89), and the host stands ready to answer the `NEXT` requests with the
sequence's tokens. The loop of R83 is then the steps of R91 to R95 (R99; assumption 14). -/
def execWrite (colors : List Color) (ended : Bool) (s : State E) : Host.Outcome (State E) Fault Refusal :=
  match s.phase with
  | .idle => .next { start s with inbox := hostTokens colors ended ++ s.inbox }
  | .fetch => .refused .startNotIdle
  | .txc => .refused .startNotIdle
  | .txr => .refused .startNotIdle

/-- Step `FETCH`/`COLOR` (R91): `CIN <- c`, `PACK(CIN)`, issue `TxWrite(BUF)`, `PHASE <- TXC`. -/
def execTokenColor (c : Color) (s : State E) : Host.Outcome (State E) Fault Refusal :=
  let packed := packBuf c { s with cin := c }
  issueInFetch packed.buf .txc packed

/-- Step `FETCH`/`END` (R92): issue `TxWrite(zeros(N_RESET))`, `PHASE <- TXR`; `CIN` and `BUF` are not written. -/
def execTokenEnd (s : State E) : Host.Outcome (State E) Fault Refusal :=
  issueInFetch (zeros s.cfg.nReset) .txr s

end Sys2Proof.Machine
end

