-- ==== Sys2Proof/Machine/Transport.lean ====
section
/-! DEFINITION. The meanings of the transport's two operations: `TXWRITE` and `SHIFT` (42_transport_and_wire.md). -/

namespace Sys2Proof.Machine

variable {E : Type}

/-- `TXWRITE(s)` (R107): hand `s` to the transport and hold until it answers; the sequencer's phase is not touched. -/
def execTxwrite (bytes : List Byte) (s : State E) : Host.Outcome (State E) Fault Refusal := issue bytes s.phase s

/-- `SHIFT(x)` (R113). -/
def execShift (x : Byte) (s : State E) : Host.Outcome (State E) Fault Refusal :=
  .next (putResult (.levels (shiftLevels x)) s)

end Sys2Proof.Machine
end

