-- ==== Sys2Proof/Machine/Dispatch.lean ====
section
/-! DEFINITION. The dispatch of the operations to their meanings, one arm per row of spec/opcode_table.json. -/

namespace Sys2Proof.Machine

def exec (i : Instr) (s : State) : Host.Outcome State Fault Refusal :=
  match i with
  | .sym b => Sys2Proof.Machine.execSym b s
  | .encn n => Sys2Proof.Machine.execEncn n s
  | .encb v => Sys2Proof.Machine.execEncb v s
  | .row v => Sys2Proof.Machine.execRow v s
  | .tbuild => Sys2Proof.Machine.execTbuild s
  | .lookup v => Sys2Proof.Machine.execLookup v s
  | .decode bytes => Sys2Proof.Machine.execDecode bytes s
  | .pack c => Sys2Proof.Machine.execPack c s
  | .emitc => Sys2Proof.Machine.execEmitc s
  | .emitr => Sys2Proof.Machine.execEmitr s
  | .write colors ended => Sys2Proof.Machine.execWrite colors ended s
  | .tokenColor c => Sys2Proof.Machine.execTokenColor c s
  | .tokenEnd => Sys2Proof.Machine.execTokenEnd s
  | .txwrite bytes => Sys2Proof.Machine.execTxwrite bytes s
  | .shift x => Sys2Proof.Machine.execShift x s

end Sys2Proof.Machine
end

