-- ==== Sys2Proof/Machine/Fetch.lean ====
section
/-! DEFINITION. Where the next operation comes from: the head of the inbox (41_frame_writer.md R87, R90; assumption 7),
how a table word is placed there (assumption 25), and the step that takes it (R88). -/

namespace Sys2Proof.Machine

variable {E : Type}

/-- The operation a message asks for, or why it is none. -/
def fetch (m : Msg) : Except Reject Instr := decode m.port m.bytes

/-- The message that carries a table word. -/
def tableMsg (nbits w : Nat) : Msg := ⟨tablePort (tableBytes nbits w), tableBytes nbits w⟩

/-- The phase in which the sequencer takes an operation from a port: a token, `EMITC` and `EMITR` only in `FETCH` (R91,
R92), `START` only in `IDLE` (R89), any other in every phase. -/
def takingPhase (p : Port) (now : Phase) : Phase :=
  match p with
  | .token => .fetch
  | .emitc => .fetch
  | .emitr => .fetch
  | .write => .idle
  | .sym => now
  | .encn => now
  | .encb => now
  | .row => now
  | .tbuild => now
  | .lookup => now
  | .decode => now
  | .pack => now
  | .txwrite => now
  | .shift => now

/-- The state with one message to take next: no request outstanding, and the sequencer where it takes it. -/
def place (m : Msg) (s : State E) : State E :=
  { s with req := none, inbox := m :: s.inbox, phase := takingPhase m.port s.phase }

/-- One step of the block with its two outside agents, `run` being what an operation does (R88): refuse an ill-formed
configuration (R8); with a request outstanding the transport moves or the machine holds; with none the next event is taken,
or the machine holds (R17, R100). An event that came too early, as a `START` during `TXC` or `TXR`, waits in the inbox until
it is at the head with no request outstanding, and is judged then; the spec says nothing of such a run, and says not to
assume that it is queued (R89, D4, N7): DESIGN CHOICE, assumption 32. -/
def stepWith (run : Instr → State E → Host.Outcome (State E) Fault Refusal) (s : State E) :
    Host.Outcome (State E) Fault Refusal :=
  if s.cfg.wf then
    match s.req with
    | some bytes => .next (awaitAnswer bytes s)
    | none =>
      match s.inbox with
      | [] => .next s
      | m :: rest =>
        match fetch m with
        | .ok i => run i { s with inbox := rest }
        | .error why => .refused (.undecodable why)
  else .refused .configuration

end Sys2Proof.Machine
end

