-- ==== Sys2Proof/Machine/Step.lean ====
section
/-! DEFINITION. One step behind the host's interface (41_frame_writer.md R88), at the error type `TransportError`; the same
step at any error type is `stepOf` (Machine/Parametric.lean). -/

namespace Sys2Proof.Machine

/-- One step of the block with its two outside agents. -/
def step (s : State) : Host.Outcome State Fault Refusal := stepWith exec s

/-- The state whose next step takes the table word `w` (assumption 25). -/
def State.withFetchWord (s : State) (nbits w : Nat) : State := place (tableMsg nbits w) s

end Sys2Proof.Machine
end

