-- ==== Sys2Proof/Machine/Parametric.lean ====
section
/-! DEFINITION. The machine for any transport error type `E` (00_scope.md R9: "A model takes `E` as a type parameter").
`exec` and `step` are these at `TransportError`; the host's interface fixes their type (assumption 2). -/

namespace Sys2Proof.Machine

variable {E : Type}

/-- The dispatch of the operations to their meanings, at any error type. -/
def execOf (i : Instr) (s : State E) : Host.Outcome (State E) Fault Refusal :=
  match i with
  | .sym b => execSym b s
  | .encn n => execEncn n s
  | .encb v => execEncb v s
  | .row v => execRow v s
  | .tbuild => execTbuild s
  | .lookup v => execLookup v s
  | .decode bytes => execDecode bytes s
  | .pack c => execPack c s
  | .emitc => execEmitc s
  | .emitr => execEmitr s
  | .write colors ended => execWrite colors ended s
  | .tokenColor c => execTokenColor c s
  | .tokenEnd => execTokenEnd s
  | .txwrite bytes => execTxwrite bytes s
  | .shift x => execShift x s

/-- One step, at any error type. -/
def stepOf (s : State E) : Host.Outcome (State E) Fault Refusal := stepWith execOf s

end Sys2Proof.Machine
end

