-- ==== Sys2Proof/Machine/TableForms.lean ====
section
/-! DEFINITION. The three ways to hold the table that R80 names, and the machine whose `LOOKUP` reads the table so held
(40_encoder.md R70, R80; 70_reset_and_hazards.md R143). The machine itself reads it by `MemRead` (R71); that all of them
behave alike is a statement. -/

namespace Sys2Proof.Machine

variable {E : Type}

/-- How an implementation holds the table (R80). -/
inductive TableForm where
  /-- "No table": `ROW(v)` is computed on demand. -/
  | onDemand
  /-- "A ROM": the 256 rows are there from power-on. -/
  | rom
  /-- "A RAM filled once before the first `WRITE`", whatever it held before. -/
  | ram (before : Vector (List Byte) 256)
deriving DecidableEq, Repr

/-- `TBUILD`'s loop (R70) over a RAM: `for v in 0..255: TABLE[v] = ROW(v)`. -/
def fillTable (c : Cfg) (before : List (List Byte)) : List (List Byte) :=
  (List.range 256).foldl (fun table v => table.set v (row c (BitVec.ofNat 8 v))) before

/-- `LOOKUP(v)` of an implementation that holds the table in the form `form`. -/
def lookupBy (form : TableForm) (c : Cfg) (v : Byte) : List Byte :=
  match form with
  | .onDemand => row c v
  | .rom => (tbuild c).getD v.toNat []
  | .ram before => (fillTable c before.toList).getD v.toNat []

/-- `PACK(c)` over `lookupBy` (R84). -/
def packBufBy (form : TableForm) (c : Color) (s : State E) : State E :=
  { s with buf := lookupBy form s.cfg c.g ++ lookupBy form s.cfg c.r ++ lookupBy form s.cfg c.b }

/-- What each operation does when the table is held in the form `form`: `LOOKUP`, `PACK` and a colour token, which packs
(R91), read it so; `TBUILD` names its content (R70); no other operation reads the table. -/
def execBy (form : TableForm) (i : Instr) (s : State E) : Host.Outcome (State E) Fault Refusal :=
  match i with
  | .lookup v => .next (putResult (.row (lookupBy form s.cfg v)) s)
  | .pack c => .next (packBufBy form c s)
  | .tokenColor c =>
    let packed := packBufBy form c { s with cin := c }
    issueInFetch packed.buf .txc packed
  | .tbuild => .next (putResult (.table ((List.range 256).map fun v => lookupBy form s.cfg (BitVec.ofNat 8 v))) s)
  | .sym b => execSym b s
  | .encn n => execEncn n s
  | .encb v => execEncb v s
  | .row v => execRow v s
  | .decode bytes => execDecode bytes s
  | .emitc => execEmitc s
  | .emitr => execEmitr s
  | .write colors ended => execWrite colors ended s
  | .tokenEnd => execTokenEnd s
  | .txwrite bytes => execTxwrite bytes s
  | .shift x => execShift x s

/-- One step of an implementation that holds the table in the form `form`. -/
def stepBy (form : TableForm) (s : State E) : Host.Outcome (State E) Fault Refusal := stepWith (execBy form) s

end Sys2Proof.Machine
end

