-- ==== Sys2Proof/Machine/Environment.lean ====
section
/-! DEFINITION. The world outside the block as inputs over time: what the host and the transport give before each step
(41_frame_writer.md R87, 42_transport_and_wire.md R109: "A model takes the answer as an input of the step"). A host whose
sequence never ends (R100 (c)) is such an input (assumption 31). -/

namespace Sys2Proof.Machine

/-- What arrives before one step: events of the host, answers of the transport. -/
structure Arrivals (E : Type := TransportError) where
  msgs    : List Msg
  replies : List (Reply E)
deriving DecidableEq, Repr

/-- The inputs wait behind those already there, in every phase; a `START` or a token that comes while the machine has no move
for it is not refused here (DESIGN CHOICE, assumption 32). -/
def arrive {E : Type} (a : Arrivals E) (s : State E) : State E :=
  { s with inbox := s.inbox ++ a.msgs, replies := s.replies ++ a.replies }

/-- One step with the inputs that arrive before it. -/
def stepIn (a : Arrivals) (s : State) : Host.Outcome State Fault Refusal := step (arrive a s)

/-- `n` steps, `env i` arriving before step `i`, stopping at the first refusal. -/
def runIn (env : Nat → Arrivals) : Nat → State → Host.Outcome State Fault Refusal
  | 0, s => .next s
  | n + 1, s =>
    match runIn env n s with
    | .next t => stepIn (env n) t
    | .fault r => .fault r
    | .refused r => .refused r

/-- A host token `COLOR(c)`, as the inbox holds it. -/
def colorMsg (c : Color) : Msg := ⟨.token, encode (.tokenColor c)⟩

/-- The infinite sequence `colors` and a transport that answers `Ok` for ever (R100 (c)): after the step `START`, one colour
and one answer by turns. -/
def endless (colors : Nat → Color) : Nat → Arrivals
  | 0 => ⟨[], []⟩
  | n + 1 => if n % 2 = 0 then ⟨[colorMsg (colors (n / 2))], []⟩ else ⟨[], [.ok]⟩

end Sys2Proof.Machine
end

