-- ==== Sys2Proof/Machine/WriteSpec.lean ====
section
/-! DEFINITION. The functional specification of `WRITE` (41_frame_writer.md R98), the closed form and the counts that
claims about the encoder use (40_encoder.md R68, R74, R77, R78). None of it is called by the machine. -/

namespace Sys2Proof.Machine

/-- `FRAME(c)` (R98). -/
def specFrame (c : Cfg) (col : Color) : List Byte := row c col.g ++ row c col.r ++ row c col.b

/-- `WRITE_SPEC(colors, ans)` (R98): the final `TRACE` and the result, `i` the number of the next request. -/
def writeSpec {E : Type} (c : Cfg) (ans : Nat → Answer E) : List Color → Nat → List (TxEntry E) × Answer E
  | [], i => ([⟨zeros c.nReset, ans i⟩], ans i)
  | col :: rest, i =>
    match ans i with
    | .err e => ([⟨specFrame c col, .err e⟩], .err e)
    | .ok =>
      let later := writeSpec c ans rest (i + 1)
      (⟨specFrame c col, .ok⟩ :: later.1, later.2)

/-- The `i`-th answer of a list of replies, counting from 0 (R98). -/
def answerAt {E : Type} (replies : List (Reply E)) (i : Nat) : Answer E :=
  match replies[i]? with
  | some a => a.answer
  | none => .ok

/-- `spread(v)`: the sum over `i` in 0..7 of `bit(v, i) * 16^i` (R68). -/
def spread (v : Byte) : Nat :=
  ((List.range 8).map fun i => if byteBit v i then 16 ^ i else 0).sum

/-- The number of 1 bits of a byte (R77). -/
def popcount (v : Byte) : Nat := (List.range 8).countP fun i => byteBit v i

/-- The four levels of one input bit: low, high, `b`, `b` (R78). -/
def symbolLevels (b : Bool) : List Level := [.low, .high, levelOf b, levelOf b]

/-- The input bits of a byte, most significant first (R34). -/
def bitsMsbFirst (v : Byte) : List Bool :=
  [byteBit v 7, byteBit v 6, byteBit v 5, byteBit v 4, byteBit v 3, byteBit v 2, byteBit v 1, byteBit v 0]

/-- The 24-bit word of a uniform 3-bit code: every input bit has the pattern `p1` or `p0`, packed most significant
first (R74's warning). -/
def uniformWord (p0 p1 : BitVec 3) (v : Byte) : BitVec 24 :=
  let p (i : Nat) : BitVec 3 := if byteBit v i then p1 else p0
  p 7 ++ p 6 ++ p 5 ++ p 4 ++ p 3 ++ p 2 ++ p 1 ++ p 0

/-- A 24-bit word as a row of three bytes, first byte first. -/
def row3OfWord (w : BitVec 24) : Row3 := ⟨w.extractLsb' 16 8, w.extractLsb' 8 8, w.extractLsb' 0 8⟩

/-- A `TABLE3` that is a uniform 3-bit code with the patterns `p0` and `p1` (R74's warning). -/
def uniformTable3 (p0 p1 : BitVec 3) : Table3 :=
  Vector.ofFn fun v : Fin 256 => row3OfWord (uniformWord p0 p1 (BitVec.ofNat 8 v.val))

end Sys2Proof.Machine
end

