-- ==== Sys2Proof/Safety.lean ====
section
/-! DEFINITION. The terms in which claims are stated: what is idle-safe, which requests the sequencer makes, what a
`WRITE`'s transcript looks like, what a run is, and when two states look alike to the block's outputs. -/

namespace Sys2Proof.Machine

/-- Up to `n` steps, stopping at the first refusal. -/
def runFor : Nat → State → Host.Outcome State Fault Refusal
  | 0, s => .next s
  | n + 1, s =>
    match step s with
    | .next t => runFor n t
    | .fault r => .fault r
    | .refused r => .refused r

/-- Every byte has bit 7 clear (R76). -/
def TopClear (bytes : List Byte) : Prop := ∀ x ∈ bytes, byteBit x 7 = false

/-- Every byte of every row of the instance's table has bit 7 clear: R76 for `W = 4`, the named hypothesis `H_IDLE3` for
`W = 3` (R74). -/
def TableIdleSafe (c : Cfg) : Prop := ∀ v : Byte, TopClear (row c v)

/-- The host's inbox holds host events only: "the host can only start a `WRITE`, answer colour requests and receive the
result" (R18). -/
def HostOnly (s : State) : Prop := ∀ m ∈ s.inbox, m.port = .write ∨ m.port = .token

/-- The pending request "is identified by `PHASE`: in `TXC` the pending request is the content of `BUF`, in `TXR` it is
`zeros(N_RESET)`" (R88). -/
def PendingIsPhase (s : State) : Prop :=
  match s.phase with
  | .idle => s.req = none
  | .fetch => s.req = none
  | .txc => s.req = some s.buf
  | .txr => s.req = some (zeros s.cfg.nReset)

/-- The invariant of the sequencer under host events: `BUF` has its `3 * W` bytes (R15) and the pending request is the
one `PHASE` names (R88). -/
structure Sequenced (s : State) : Prop where
  hostOnly : HostOnly s
  bufSized : s.buf.length = 3 * s.cfg.w
  pending  : PendingIsPhase s

/-- Everything the block has handed or holds for the transport has bit 7 clear, and the line is low (R76, R116). -/
structure IdleSafe (s : State) : Prop where
  buf   : TopClear s.buf
  trace : ∀ e ∈ s.trace, TopClear e.request
  wire  : TopClear s.wire
  line  : s.line = .low

/-- A platform on which idle-safe bytes keep the line low: its idle level is the last byte's bit 7, or is low (R116). -/
def keepsLow (r : IdleRule) : Prop := r = .msbOfLastByte ∨ r = .low

/-- A colour-frame entry answered `Ok`. -/
def TxEntry.isFrameOk (c : Cfg) (e : TxEntry) : Prop := e.request.length = 3 * c.w ∧ e.answer = .ok

/-- While a `WRITE` runs: only colour frames answered `Ok` so far, `K` of them, and one more `NEXT` than frames (R24,
R90, R101, R104). -/
def Streaming (s : State) : Prop :=
  (∀ e ∈ s.trace, e.isFrameOk s.cfg) ∧ s.k = s.trace.length ∧
    s.hostOut = List.replicate (s.trace.length + 1) .next

/-- The last entry of an ended `WRITE`: the reset frame with any answer, or a colour frame answered `Err` (R103). -/
def TxEntry.mayEnd (c : Cfg) (e : TxEntry) : Prop :=
  e.request = zeros c.nReset ∨ (e.request.length = 3 * c.w ∧ e.answer ≠ .ok)

/-- After a `WRITE`: colour frames answered `Ok`, then one entry that ended it, whose answer is the one `Done` delivered;
as many `NEXT` as entries, and exactly one `Done` (R96, R103, R104). -/
def Ended (s : State) : Prop :=
  ∃ before last, s.trace = before ++ [last] ∧ (∀ e ∈ before, e.isFrameOk s.cfg) ∧ last.mayEnd s.cfg ∧
    s.hostOut = List.replicate (before.length + 1) .next ++ [.done last.answer]

/-- The transcript of the current or last `WRITE`. In `IDLE` before any `WRITE` there is none (R29). -/
def Transcript (s : State) : Prop :=
  match s.phase with
  | .idle => (s.trace = [] ∧ s.hostOut = []) ∨ Ended s
  | .fetch => Streaming s
  | .txc => Streaming s
  | .txr => Streaming s

/-- `part` is what one request put on the wire: all of it on `Ok` (R110), some first part on `Err` (R111). -/
def WirePart (e : TxEntry) (part : List Byte) : Prop :=
  part <+: e.request ∧ (e.answer = .ok → part = e.request)

/-- `WIRE` is made of the requests of `TRACE`, in order (R43, R110, R111, R125). -/
def WireFollowsTrace (s : State) : Prop :=
  ∃ parts, List.Forall₂ WirePart s.trace parts ∧ s.wire = parts.flatten

/-- The world outside gives colours and `Ok` answers only, whenever it likes: a host that never ends its sequence and a
transport that never fails (R100 (c)). -/
structure OnlyColours (env : Nat → Arrivals) : Prop where
  msgs    : ∀ n, ∀ m ∈ (env n).msgs, ∃ c, m = colorMsg c
  replies : ∀ n, ∀ a ∈ (env n).replies, a = .ok

/-- Two states that look alike to the block's outputs: they may differ in `CIN`, `BUF`, the line, the last result and the
free values drawn (R26, R30). -/
structure Alike (s t : State) : Prop where
  cfg     : s.cfg = t.cfg
  phase   : s.phase = t.phase
  trace   : s.trace = t.trace
  wire    : s.wire = t.wire
  k       : s.k = t.k
  hostOut : s.hostOut = t.hostOut
  req     : s.req = t.req
  inbox   : s.inbox = t.inbox
  replies : s.replies = t.replies

/-- Two outcomes that look alike: next states that do, or the same refusal. -/
def AlikeOutcome : Host.Outcome State Fault Refusal → Host.Outcome State Fault Refusal → Prop
  | .next s, .next t => Alike s t
  | .refused a, .refused b => a = b
  | _, _ => False

/-! ## Carrying one error type to another (R9, R112) -/

variable {E F : Type}

/-- An answer with its error value carried over by `f`. -/
def Answer.mapErr (f : E → F) : Answer E → Answer F
  | .ok => .ok
  | .err e => .err (f e)

/-- A reply with its error value carried over by `f`. -/
def Reply.mapErr (f : E → F) : Reply E → Reply F
  | .ok => .ok
  | .err e sent => .err (f e) sent

/-- An entry of `TRACE` with its error value carried over by `f`. -/
def TxEntry.mapErr (f : E → F) (e : TxEntry E) : TxEntry F :=
  ⟨e.request, e.answer.mapErr f⟩

/-- An event to the host with its error value carried over by `f`. -/
def HostEvent.mapErr (f : E → F) : HostEvent E → HostEvent F
  | .next => .next
  | .done a => .done (a.mapErr f)

/-- A result with its error value carried over by `f`. -/
def OpResult.mapErr (f : E → F) : OpResult E → OpResult F
  | .none => .none
  | .symbol q => .symbol q
  | .group g => .group g
  | .word w => .word w
  | .row bytes => .row bytes
  | .table rows => .table rows
  | .decoded v => .decoded v
  | .levels l => .levels l
  | .answer a => .answer (a.mapErr f)

/-- A state with every error value in it carried over by `f`. -/
def State.mapErr (f : E → F) (s : State E) : State F :=
  { s with
    trace   := s.trace.map (TxEntry.mapErr f)
    hostOut := s.hostOut.map (HostEvent.mapErr f)
    res     := s.res.mapErr f
    replies := s.replies.map (Reply.mapErr f) }

/-- An outcome with every error value in it carried over by `f`. -/
def mapErrOutcome (f : E → F) :
    Host.Outcome (State E) Fault Refusal → Host.Outcome (State F) Fault Refusal
  | .next s => .next (s.mapErr f)
  | .fault r => .fault r
  | .refused r => .refused r

end Sys2Proof.Machine
end

