-- ==== Sys2Proof/Certificates/Slice0/Obligations.lean ====
section
/-! DEFINITION. The statements for the provers. Each docstring names the rule of spec/ it formalises, or says that it
rests on a choice of the spec or of the model. -/

open Sys2Proof Sys2Proof.Machine

/-! ## The generator and the table (40_encoder.md) -/

/-- R65: the two symbols, and their closed form. -/
def Obligations.SymGivesTheLiteralSymbol : Prop :=
  ∀ (b : Bool) (s : State), ∃ q : BitVec 4,
    exec (.sym b) s = .next { s with res := .symbol q } ∧
      q = (if b then 0b0111#4 else 0b0100#4) ∧
      q = 0b0100#4 ||| ((BitVec.ofBool b).zeroExtend 4 <<< 1) ||| (BitVec.ofBool b).zeroExtend 4

/-- R66 and R49: symbol `i` of a group, counted from the least significant end, is `0 1 b b` for bit `i` of the
nibble. -/
def Obligations.EncnPlacesFourSymbols : Prop :=
  ∀ (n : BitVec 4) (s : State), ∃ g : BitVec 16,
    exec (.encn n) s = .next { s with res := .group g } ∧
      ∀ i, i < 4 → g.getLsbD (4 * i + 3) = false ∧ g.getLsbD (4 * i + 2) = true ∧
        g.getLsbD (4 * i + 1) = n.getLsbD i ∧ g.getLsbD (4 * i) = n.getLsbD i

/-- R67: the word is the group of the high nibble above the group of the low nibble. -/
def Obligations.EncbConcatenatesTheGroups : Prop :=
  ∀ (v : Byte) (s : State), ∃ hi lo : BitVec 16,
    exec (.encn (v.extractLsb' 4 4)) s = .next { s with res := .group hi } ∧
      exec (.encn (v.extractLsb' 0 4)) s = .next { s with res := .group lo } ∧
      exec (.encb v) s = .next { s with res := .word (hi ++ lo) }

/-- R68 and R58, both marked derived by the spec: the closed form with `+` and with `|`, and the place of every input
bit in the word. -/
def Obligations.EncbIsTheClosedForm : Prop :=
  ∀ (v : Byte) (s : State), ∃ w : BitVec 32,
    exec (.encb v) s = .next { s with res := .word w } ∧
      w.toNat = 0x44444444 + 3 * spread v ∧ w.toNat = 0x44444444 ||| (3 * spread v) ∧
      ∀ i, i < 8 → w.getLsbD (4 * i + 3) = false ∧ w.getLsbD (4 * i + 2) = true ∧
        w.getLsbD (4 * i + 1) = v.getLsbD i ∧ w.getLsbD (4 * i) = v.getLsbD i

/-- R69: at `W = 4` the word's bytes, which are also the byte-by-byte form; at `W = 3` the open parameter `TABLE3(v)`. -/
def Obligations.RowIsTheWordsBytesOrTable3 : Prop :=
  ∀ (v : Byte) (s : State),
    (s.cfg.width = .w4 → ∃ (w : BitVec 32) (bytes : List Byte),
      exec (.encb v) s = .next { s with res := .word w } ∧
        exec (.row v) s = .next { s with res := .row bytes } ∧
        bytes = [w.extractLsb' 24 8, w.extractLsb' 16 8, w.extractLsb' 8 8, w.extractLsb' 0 8] ∧
        bytes = (List.range 4).map fun j => 0x44#8 |||
          ((if v.getLsbD (7 - 2 * j) then 3#8 else 0#8) <<< 4) ||| (if v.getLsbD (6 - 2 * j) then 3#8 else 0#8)) ∧
    ∀ t : Table3, s.cfg.width = .w3 t →
      exec (.row v) s = .next { s with res := .row [(t[v.toNat]'v.isLt).b0, (t[v.toNat]'v.isLt).b1, (t[v.toNat]'v.isLt).b2] }

/-- R70: `TABLE[v] = ROW(v)` for every `v` in 0..255, and no other row. -/
def Obligations.TbuildTabulatesEveryRow : Prop :=
  ∀ s : State, ∃ rows : List (List Byte),
    exec .tbuild s = .next { s with res := .table rows } ∧ rows.length = 256 ∧
      ∀ v : Byte, ∃ r, rows[v.toNat]? = some r ∧ exec (.row v) s = .next { s with res := .row r }

/-- R71: `LOOKUP(v)` is the read `MemRead(v * W, W)`, is row `v` of the table, is `ROW(v)`; its address is at most 1020.
R80: so it is whether the rows are computed on demand, stand in a ROM, or fill a RAM once, and the whole machine steps alike
in each form. -/
def Obligations.LookupReadsTheRow : Prop :=
  (∀ (v : Byte) (s : State), ∃ bytes : List Byte,
    exec (.lookup v) s = .next { s with res := .row bytes } ∧
      memRead s.cfg (v.toNat * s.cfg.w) s.cfg.w = some bytes ∧
      (tbuild s.cfg)[v.toNat]? = some bytes ∧
      exec (.row v) s = .next { s with res := .row bytes } ∧
      bytes.length = s.cfg.w ∧ v.toNat * s.cfg.w ≤ 1020) ∧
  ∀ (form : TableForm) (s : State),
    (∀ v : Byte, exec (.row v) s = .next { s with res := .row (lookupBy form s.cfg v) }) ∧ stepBy form s = step s

/-- R39 and R32 (the spec's decision D9): `MemRead` answers exactly the reads of one whole row at `v * W` and refuses
every other. -/
def Obligations.MemReadAnswersWholeRowsOnly : Prop :=
  ∀ (c : Cfg) (addr n : Nat),
    (∃ bytes, memRead c addr n = some bytes) ↔ ∃ v : Byte, addr = v.toNat * c.w ∧ n = c.w

/-- R32 and R10 (the spec's decision D9): byte `j` of row `v` stands at address `v * W + j` of the flat table, which has
`256 * W` bytes. -/
def Obligations.TableByteStandsAtRowTimesWidth : Prop :=
  ∀ (c : Cfg) (v : Byte) (j : Nat), j < c.w →
    (tbuild c).flatten.length = 256 * c.w ∧ (tbuild c).flatten[v.toNat * c.w + j]? = (row c v)[j]?

/-- R73: at `W = 4` every row has four bytes and `DECODE` recovers the byte exactly; so distinct bytes have distinct
rows. -/
def Obligations.DecodeRecoversEveryByte : Prop :=
  ∀ (v : Byte) (s : State), s.cfg.width = .w4 → ∃ bytes : List Byte,
    exec (.row v) s = .next { s with res := .row bytes } ∧ bytes.length = 4 ∧
      exec (.decode bytes) s = .next { s with res := .decoded (some v) } ∧
      ∀ u : Byte, exec (.row u) s = .next { s with res := .row bytes } → u = v

/-- R72: `DECODE` gives a byte exactly on four bytes whose every half is a symbol, and then the byte whose row they are;
on every other list it gives none. -/
def Obligations.DecodeNeverGuesses : Prop :=
  ∀ (bytes : List Byte) (s : State), ∃ r : Option Byte,
    exec (.decode bytes) s = .next { s with res := .decoded r } ∧
      (r.isSome = true ↔ bytes.length = 4 ∧ ∀ x ∈ bytes,
        (x.extractLsb' 4 4 = 0b0100#4 ∨ x.extractLsb' 4 4 = 0b0111#4) ∧
        (x.extractLsb' 0 4 = 0b0100#4 ∨ x.extractLsb' 0 4 = 0b0111#4)) ∧
      ∀ v : Byte, r = some v ↔ bytes = wordToBytes (word v)

/-- R76 for the table and the reset frame (that every byte handed to the transport is idle-safe is
`StepKeepsIdleSafety`). -/
def Obligations.FourByteRowsAreIdleSafe : Prop :=
  ∀ (c : Cfg) (n : Nat), c.width = .w4 → TableIdleSafe c ∧ TopClear (zeros n)

/-- R77, marked derived by the spec: the four values of a row byte, its guard, start and doubled bits, the number of its
1 bits, and that no byte is zero. -/
def Obligations.FourByteRowStructure : Prop :=
  ∀ (c : Cfg) (v : Byte), c.width = .w4 →
    (∀ x ∈ row c v, (x = 0x44#8 ∨ x = 0x47#8 ∨ x = 0x74#8 ∨ x = 0x77#8) ∧
      byteBit x 7 = false ∧ byteBit x 3 = false ∧ byteBit x 6 = true ∧ byteBit x 2 = true ∧
      byteBit x 5 = byteBit x 4 ∧ byteBit x 1 = byteBit x 0 ∧ x ≠ 0x00#8) ∧
    ((row c v).map popcount).sum = 8 + 2 * popcount v

/-- R78 and R115, marked derived by the spec: the 32 levels of a row, four per input bit, input bit 7 first, each low,
high, `b`, `b`. -/
def Obligations.FourByteRowWaveform : Prop :=
  ∀ (c : Cfg) (v : Byte), c.width = .w4 →
    waveform (row c v) = (bitsMsbFirst v).flatMap symbolLevels ∧ (waveform (row c v)).length = 32

/-- R74's warning, marked derived by the spec: a `TABLE3` that is a uniform 3-bit code meets `H_IDLE3` only if both its
patterns are `000`. -/
def Obligations.UniformThreeBitCodeIsNotIdleSafe : Prop :=
  ∀ (c : Cfg) (p0 p1 : BitVec 3), c.width = .w3 (uniformTable3 p0 p1) → TableIdleSafe c →
    p0 = 0b000#3 ∧ p1 = 0b000#3

/-! ## The configuration (00_scope.md) -/

/-- R8 and R79: the least admissible `N_RESET` is `(3 * F_SPI_HZ + 79999) div 80000`. Positivity is part of R7 and R8. -/
def Obligations.MinResetIsTheLeastAdmissible : Prop :=
  ∀ c : Cfg, 0 < c.fSpiHz → (c.wf = true ↔ minReset c.fSpiHz ≤ c.nReset)

/-- R5, R6, R8 (the spec's decisions D6, D7, D8): which parameters build a configuration, and what is built. -/
def Obligations.BuildAcceptsExactlyTheConfigurations : Prop :=
  ∀ (w f n : Nat) (t : Option Table3) (r : IdleRule),
    ((∃ c, Cfg.build w f n t r = .ok c) ↔
      (w = 4 ∨ (w = 3 ∧ t.isSome = true)) ∧ 0 < f ∧ 0 < n ∧ 3 * f ≤ 80000 * n) ∧
    ∀ c, Cfg.build w f n t r = .ok c →
      c.wf = true ∧ c.w = w ∧ c.fSpiHz = f ∧ c.nReset = n ∧ c.idle = r ∧ ∀ t3, c.width = .w3 t3 → t = some t3

/-- R8 (the spec's decision D7): a configuration that fails the inequality is refused. -/
def Obligations.StepRefusesIllFormedConfiguration : Prop :=
  ∀ s : State, 80000 * s.cfg.nReset < 3 * s.cfg.fSpiHz → step s = .refused .configuration

/-- R21 and R59: no step changes the configuration. -/
def Obligations.ConfigurationNeverChanges : Prop :=
  ∀ s t : State, step s = .next t → t.cfg = s.cfg

/-! ## The frame writer (41_frame_writer.md) -/

/-- R84: `PACK(c)` writes `LOOKUP(c.g) ++ LOOKUP(c.r) ++ LOOKUP(c.b)`, byte by byte at the offsets 0, `W`, `2 * W`. -/
def Obligations.PackWritesTheWholeBuffer : Prop :=
  ∀ (c : Color) (s : State), ∃ g r b : List Byte,
    exec (.lookup c.g) s = .next { s with res := .row g } ∧
      exec (.lookup c.r) s = .next { s with res := .row r } ∧
      exec (.lookup c.b) s = .next { s with res := .row b } ∧
      exec (.pack c) s = .next { s with buf := g ++ r ++ b } ∧
      (g ++ r ++ b).length = 3 * s.cfg.w ∧
      ∀ j, j < s.cfg.w → (g ++ r ++ b)[j]? = g[j]? ∧ (g ++ r ++ b)[s.cfg.w + j]? = r[j]? ∧
        (g ++ r ++ b)[2 * s.cfg.w + j]? = b[j]?

/-- R85: `EMITC` hands `[BUF[0], ..., BUF[3*W-1]]` to the transport in one request, waits in `TXC`, and returns the
transport's answer, which `TRACE` records; an `Err(e)` is raised as `TransportFailure(e)`. That `EMITC` is performed on its
own, from `FETCH` only, is assumption 19; that a wait is a step that changes nothing is assumption 26. -/
def Obligations.EmitcSendsTheBuffer : Prop :=
  ∀ s : State, s.phase = .fetch → s.req = none → s.buf.length = 3 * s.cfg.w → ∃ u : State,
    exec .emitc s = .next u ∧
      u = { s with req := some ((List.range (3 * s.cfg.w)).map fun i => s.buf.getD i 0#8), phase := .txc } ∧
      (s.cfg.wf = true → s.replies = [] → step u = .next u) ∧
      ∀ a rest, s.cfg.wf = true → s.replies = a :: rest → ∃ t : State, step u = .next t ∧
        t.trace = s.trace ++ [⟨s.buf, a.answer⟩] ∧ t.res = .answer a.answer ∧
        ∀ e sent, a = .err e sent → t.phase = .idle ∧ t.hostOut = s.hostOut ++ [.done (.err e)]

/-- R86 and R54: `EMITR` hands exactly `N_RESET` zero bytes to the transport in one request, waits in `TXR`, and returns
the transport's answer, an `Err(e)` raised as `TransportFailure(e)`; shifted at `F_SPI_HZ` they last at least 300 microseconds. That `EMITR` is performed on its own, from `FETCH` only, is assumption
19; that a wait is a step that changes nothing is assumption 26. -/
def Obligations.EmitrSendsTheResetFrame : Prop :=
  ∀ s : State, s.phase = .fetch → s.req = none → ∃ u : State,
    exec .emitr s = .next u ∧
      u = { s with req := some (List.replicate s.cfg.nReset 0x00#8), phase := .txr } ∧
      (s.cfg.wf = true → 300 * s.cfg.fSpiHz ≤ 1000000 * (waveform (List.replicate s.cfg.nReset 0x00#8)).length) ∧
      (s.cfg.wf = true → s.replies = [] → step u = .next u) ∧
      ∀ a rest, s.cfg.wf = true → s.replies = a :: rest → ∃ t : State, step u = .next t ∧
        t.trace = s.trace ++ [⟨List.replicate s.cfg.nReset 0x00#8, a.answer⟩] ∧ t.res = .answer a.answer ∧
        ∀ e sent, a = .err e sent → t.phase = .idle ∧ t.hostOut = s.hostOut ++ [.done (.err e)]

/-- R89 (a step of the spec's own port, decisions D1 and D3) and assumption 14: `WRITE` in `IDLE` clears the ghosts,
raises `NEXT` and goes to `FETCH`, the host's tokens standing ready; nothing else changes. -/
def Obligations.WriteStartsInIdle : Prop :=
  ∀ (colors : List Color) (ended : Bool) (s : State), s.phase = .idle →
    exec (.write colors ended) s = .next
      { s with phase := .fetch, trace := [], wire := [], k := 0, hostOut := [.next],
               inbox := hostTokens colors ended ++ s.inbox }

/-- R89 (the spec's decision D4): outside `IDLE` there is no `START` step, the machine has no move for it. -/
def Obligations.WriteOutsideIdleHasNoMove : Prop :=
  ∀ (colors : List Color) (ended : Bool) (s : State), s.phase ≠ .idle →
    exec (.write colors ended) s = .refused .startNotIdle

/-- R91: `CIN <- c`; `PACK(CIN)`; the request of `EMITC` issued; `PHASE <- TXC`; nothing else changes. -/
def Obligations.ColourTokenPacksAndIssues : Prop :=
  ∀ (c : Color) (s : State), s.phase = .fetch → s.req = none →
    exec (.tokenColor c) s = .next
      { s with cin := c, buf := row s.cfg c.g ++ row s.cfg c.r ++ row s.cfg c.b,
               req := some (row s.cfg c.g ++ row s.cfg c.r ++ row s.cfg c.b), phase := .txc }

/-- R92: the request of `EMITR` issued; `PHASE <- TXR`; `CIN` and `BUF` are not written, whether or not a colour
preceded. -/
def Obligations.EndTokenIssuesTheResetFrame : Prop :=
  ∀ s : State, s.phase = .fetch → s.req = none →
    exec .tokenEnd s = .next { s with req := some (List.replicate s.cfg.nReset 0x00#8), phase := .txr }

/-- R97 (marked derived by the spec; U11): a token, `EMITC` and `EMITR` have no move outside `FETCH`. -/
def Obligations.NoRequestOutsideFetch : Prop :=
  ∀ (c : Color) (s : State), s.phase ≠ .fetch →
    exec (.tokenColor c) s = .refused .notFetching ∧ exec .tokenEnd s = .refused .notFetching ∧
      exec .emitc s = .refused .notFetching ∧ exec .emitr s = .refused .notFetching

/-- R43 and R124: while a request is outstanding no operation replaces it, and a `TXWRITE` is refused. -/
def Obligations.OneRequestOutstanding : Prop :=
  ∀ (s : State) (pending : List Byte), s.req = some pending →
    (∀ (i : Instr) (t : State), exec i s = .next t → t.req = some pending) ∧
      ∀ bytes, exec (.txwrite bytes) s = .refused .requestOutstanding

/-- R93: the transport answers `Ok` in `TXC`: `TRACE` extended, `K + 1`, `NEXT` raised, `FETCH`. The frame leaves open
only what the answer does outside the block: the wire, the line, the draws, the result returned
(`AnswerPutsBytesOnTheWire`). -/
def Obligations.TxcOkAsksForTheNextColour : Prop :=
  ∀ (s : State) (rest : List Reply), s.cfg.wf = true → s.phase = .txc → s.req = some s.buf →
    s.replies = .ok :: rest → ∃ t : State, step s = .next t ∧
      t.trace = s.trace ++ [⟨s.buf, .ok⟩] ∧ t.k = s.k + 1 ∧ t.phase = .fetch ∧ t.hostOut = s.hostOut ++ [.next] ∧
      t = { s with trace := t.trace, k := t.k, phase := t.phase, hostOut := t.hostOut, req := none, replies := rest,
                   wire := t.wire, line := t.line, draw := t.draw, res := t.res }

/-- R94: the transport answers `Err(e)` in `TXC`: `TRACE` extended, `Done(Err(e))`, `IDLE`, and no request follows. The
frame leaves open what the answer does outside the block and the host's elements never asked for (assumption 13). -/
def Obligations.TxcErrAborts : Prop :=
  ∀ (s : State) (e : TransportError) (sent : Nat) (rest : List Reply), s.cfg.wf = true → s.phase = .txc →
    s.req = some s.buf → s.replies = .err e sent :: rest → ∃ t : State, step s = .next t ∧
      t.trace = s.trace ++ [⟨s.buf, .err e⟩] ∧ t.hostOut = s.hostOut ++ [.done (.err e)] ∧ t.phase = .idle ∧
      t.req = none ∧
      t = { s with trace := t.trace, phase := t.phase, hostOut := t.hostOut, req := none, replies := rest,
                   wire := t.wire, line := t.line, draw := t.draw, res := t.res, inbox := t.inbox }

/-- R95: the transport's answer in `TXR`, `Ok` or `Err(e)`, is recorded and ends the `WRITE` with that answer; a failed
reset frame is not sent again. The frame leaves open what `TxcErrAborts` leaves open. -/
def Obligations.TxrAnswerEndsTheWrite : Prop :=
  ∀ (s : State) (a : Reply) (rest : List Reply), s.cfg.wf = true → s.phase = .txr →
    s.req = some (zeros s.cfg.nReset) → s.replies = a :: rest → ∃ t : State, step s = .next t ∧
      t.trace = s.trace ++ [⟨zeros s.cfg.nReset, a.answer⟩] ∧ t.hostOut = s.hostOut ++ [.done a.answer] ∧
      t.phase = .idle ∧ t.req = none ∧
      t = { s with trace := t.trace, phase := t.phase, hostOut := t.hostOut, req := none, replies := rest,
                   wire := t.wire, line := t.line, draw := t.draw, res := t.res, inbox := t.inbox }

/-- R121: `TransportFailure(e)`, from a colour frame or the reset frame, delivers `Done(Err(e))` and sets `PHASE <- IDLE`
as one step, requests nothing more, and leaves `CIN` and `BUF` as they are. -/
def Obligations.TransportFailureLeavesTheRegisters : Prop :=
  ∀ (s : State) (bytes : List Byte) (e : TransportError) (sent : Nat) (rest : List Reply), s.cfg.wf = true →
    (s.phase = .txc ∨ s.phase = .txr) → s.req = some bytes → s.replies = .err e sent :: rest →
    ∃ t : State, step s = .next t ∧ t.hostOut = s.hostOut ++ [.done (.err e)] ∧ t.phase = .idle ∧ t.req = none ∧
      t.cin = s.cin ∧ t.buf = s.buf ∧ t.k = s.k

/-- R97 (marked derived by the spec): the phase moves only along the transition table, and the decision at `FETCH` does
not depend on the colour's value. -/
def Obligations.PhaseMovesOnlyAlongTheTable : Prop :=
  (∀ s t : State, step s = .next t → t.phase = s.phase ∨
    (s.phase, t.phase) ∈ [(Phase.idle, Phase.fetch), (.fetch, .txc), (.fetch, .txr), (.txc, .fetch), (.txc, .idle),
      (.txr, .idle)]) ∧
  ∀ (s t : State) (c d : Color), exec (.tokenColor c) s = .next t →
    ∃ u : State, exec (.tokenColor d) s = .next u ∧ u.phase = t.phase

/-- R100 (the spec's decision D18) and R44: without the awaited answer or event the machine holds for ever. That a hold
is a step that changes nothing is the model's choice (assumption 26). -/
def Obligations.HoldsUntilTheAwaitedInput : Prop :=
  ∀ (s : State) (n : Nat), s.cfg.wf = true →
    ((∃ bytes, s.req = some bytes) ∧ s.replies = []) ∨ (s.req = none ∧ s.inbox = []) →
    runFor n s = .next s

/-! ## The transport and the wire (42_transport_and_wire.md) -/

/-- R107: `TXWRITE(s)` hands `s` to the transport and holds; the phase is not touched. That `TXWRITE` can be asked for on
its own is the model's choice (assumptions 7, 18). -/
def Obligations.TxwriteHandsTheBuffer : Prop :=
  ∀ (bytes : List Byte) (s : State), s.req = none →
    exec (.txwrite bytes) s = .next { s with req := some bytes }

/-- R110 and R111 (the spec's decisions D12, D13): whatever the phase, an answer records the request and its answer, and
puts all of the request on the wire on `Ok`, its first `sent` bytes on `Err`. -/
def Obligations.AnswerPutsBytesOnTheWire : Prop :=
  ∀ (s : State) (bytes : List Byte) (a : Reply) (rest : List Reply), s.cfg.wf = true → s.req = some bytes →
    s.replies = a :: rest → ∃ t : State, step s = .next t ∧ t.replies = rest ∧ t.req = none ∧
      t.trace = s.trace ++ [⟨bytes, a.answer⟩] ∧ t.res = .answer a.answer ∧
      (a = .ok → t.wire = s.wire ++ bytes) ∧
      ∀ e sent, a = .err e sent → t.wire = s.wire ++ bytes.take sent

/-- R113 (the spec's decision D14): eight levels, bit 7 first. -/
def Obligations.ShiftSendsBitSevenFirst : Prop :=
  ∀ (x : Byte) (s : State),
    exec (.shift x) s = .next
      { s with res := .levels ((List.range 8).map fun i => if x.getLsbD (7 - i) then Level.high else Level.low) }

/-- R115 (marked derived by the spec): at `W = 4` what `PACK(c)` leaves in `BUF` is 96 levels, 24 symbols, green bit 7 to
green bit 0, then red, then blue; the reset frame is `8 * N_RESET` lows. -/
def Obligations.FrameWaveforms : Prop :=
  ∀ (c : Color) (s t : State), s.cfg.width = .w4 → exec (.pack c) s = .next t →
    waveform t.buf = (bitsMsbFirst c.g ++ bitsMsbFirst c.r ++ bitsMsbFirst c.b).flatMap symbolLevels ∧
      (waveform t.buf).length = 96 ∧
      waveform (List.replicate s.cfg.nReset 0x00#8) = List.replicate (8 * s.cfg.nReset) .low

/-- R156 (marked derived by the spec), in bit times, at both widths: a colour frame lasts `24 * W`, the reset frame
`8 * N_RESET`; and with 140 zero bytes the reset frame reaches 300 microseconds exactly up to 3 733 333 Hz. -/
def Obligations.FrameDurations : Prop :=
  ∀ (c : Color) (s t : State), exec (.pack c) s = .next t →
    (waveform t.buf).length = 24 * s.cfg.w ∧ (waveform (zeros s.cfg.nReset)).length = 8 * s.cfg.nReset ∧
      ∀ f, 300 * f ≤ 1000000 * (waveform (zeros 140)).length ↔ f ≤ 3733333

/-! ## Frames -/

/-- R75 and the head of 40_encoder.md: the encoder's operations and `SHIFT` change nothing but the result they return. -/
def Obligations.PureOperationsChangeOnlyTheResult : Prop :=
  ∀ (i : Instr) (s t : State),
    (i.port = .sym ∨ i.port = .encn ∨ i.port = .encb ∨ i.port = .row ∨ i.port = .tbuild ∨ i.port = .lookup ∨
      i.port = .decode ∨ i.port = .shift) →
    exec i s = .next t → t = { s with res := t.res }

/-- What `PACK`, `EMITC`, `EMITR`, `WRITE`, the tokens and `TXWRITE` leave unchanged (R84 to R92, R107): every field of
the state but those named. -/
def Obligations.FrameWriterOperationsFrame : Prop :=
  ∀ (s t : State) (c : Color) (colors : List Color) (ended : Bool) (bytes : List Byte),
    (exec (.pack c) s = .next t → t = { s with buf := t.buf }) ∧
    (exec .emitc s = .next t → t = { s with req := t.req, phase := t.phase }) ∧
    (exec .emitr s = .next t → t = { s with req := t.req, phase := t.phase }) ∧
    (exec (.tokenColor c) s = .next t →
      t = { s with cin := t.cin, buf := t.buf, req := t.req, phase := t.phase }) ∧
    (exec .tokenEnd s = .next t → t = { s with req := t.req, phase := t.phase }) ∧
    (exec (.txwrite bytes) s = .next t → t = { s with req := t.req }) ∧
    (exec (.write colors ended) s = .next t →
      t = { s with phase := t.phase, trace := t.trace, wire := t.wire, k := t.k, hostOut := t.hostOut,
                   inbox := t.inbox })

/-! ## Decoding and stepping -/

/-- The formats of R48 to R55 lose nothing: the decoder reads every operation back from its encoding, on its port, with
every operand at every value. The port (assumption 15) and the whole bytes a narrow format stands in (assumption 16) are
the model's choice. -/
def Obligations.DecodeInvertsEncode : Prop :=
  ∀ i : Instr, decode i.port (encode i) = .ok i

/-- A few words written out from the spec's encodings decode to what they stand for: the symbol (R48), the group (R49), the
row (R51) and the token (R55, the spec's decision D3); bytes on the row's port with a group
that is no symbol (R62) do not fit the row's format, and the decoder rejects them by name.
That each stands in whole bytes, the highest first, the 4-bit symbol in one and the 25-bit token in four with zeros above,
is the model's choice (assumption 16), as is that the port says which operation the bytes are (assumption 15). -/
def Obligations.WrittenOutWordsDecode : Prop :=
  decode .sym [0b0000_0111#8] = .ok (.sym true) ∧
  decode .encn [0b0111_0111#8, 0b0100_0100#8] = .ok (.encn 0xC#4) ∧
  decode .row [0b0100_0111#8, 0b0100_0100#8, 0b0111_0111#8, 0b0100_0100#8] = .ok (.row 0x4C#8) ∧
  decode .token [0x00#8, 0x12#8, 0x34#8, 0x56#8] = .ok (.tokenColor ⟨0x12#8, 0x34#8, 0x56#8⟩) ∧
  decode .token [0x01#8, 0xFF#8, 0xFF#8, 0xFF#8] = .ok .tokenEnd ∧
  decode .row [0b0100_0111#8, 0b0100_0100#8, 0b0111_0111#8, 0b0100_0101#8] = .error .notASymbol

/-- With no request outstanding, the head of the inbox that decodes to an operation is run, with the inbox moved past it
(R88, R90; assumption 7). -/
def Obligations.StepRunsTheDecodedOperation : Prop :=
  ∀ (s : State) (m : Msg) (rest : List Msg) (i : Instr), s.cfg.wf = true → s.req = none → s.inbox = m :: rest →
    decode m.port m.bytes = .ok i → step s = exec i { s with inbox := rest }

/-! ## Reset -/

/-- R29, R140, R141 (the spec's decision D10): after reset the block is idle, nothing is recorded or outstanding, the
line is low, the table is there, and it does nothing until the host asks. `CIN`, `BUF` and the instance are the model's
choices (assumptions 1, 5, 6); so is it that a step with no input is a hold that changes nothing, and that an operation
comes from outside (assumptions 26, 14). -/
def Obligations.ResetStateAndSilence : Prop :=
  State.reset.phase = .idle ∧ State.reset.trace = [] ∧ State.reset.wire = [] ∧ State.reset.k = 0 ∧
    State.reset.hostOut = [] ∧ State.reset.line = .low ∧ State.reset.req = none ∧ State.reset.inbox = [] ∧
    State.reset.replies = [] ∧
    State.reset.cfg = cfgRef ∧ State.reset.cfg.wf = true ∧
    State.reset.cin = ⟨0#8, 0#8, 0#8⟩ ∧ State.reset.buf = zeros 12 ∧
    (∀ v : Byte, exec (.lookup v) State.reset =
      .next { State.reset with res := .row (wordToBytes (word v)) }) ∧
    ∀ n, runFor n State.reset = .next State.reset

/-- Every invariant stated below holds at reset. That `BUF` has its size and clear top bits there rests on the model's
choice of twelve zero bytes (assumption 5) and of the instance `CFG_REF` (assumption 1): R29 gives `BUF` no value. -/
def Obligations.ResetMeetsTheInvariants : Prop :=
  Sequenced State.reset ∧ Transcript State.reset ∧ IdleSafe State.reset ∧ WireFollowsTrace State.reset

/-! ## Invariants every step keeps -/

/-- R15, R18, R40, R88: under host events the pending request stays the one `PHASE` names and `BUF` stays `3 * W` bytes;
so every request has one of the two sizes. -/
def Obligations.StepKeepsSequenced : Prop :=
  ∀ s t : State, Sequenced s → step s = .next t →
    Sequenced t ∧ ∀ bytes, t.req = some bytes → (Instr.txwrite bytes).wf t.cfg = true

/-- R76 and R116: with an idle-safe table (R76 at `W = 4`, the premise `H_IDLE3` at `W = 3`) on a platform that idles at
the last byte's bit 7 or low, every byte handed over and on the wire keeps bit 7 clear and the line stays low. -/
def Obligations.StepKeepsIdleSafety : Prop :=
  ∀ s t : State, Sequenced s → TableIdleSafe s.cfg → keepsLow s.cfg.idle → IdleSafe s → step s = .next t → IdleSafe t

/-- R24, R90, R96, R101, R103, R104: the transcript of a `WRITE` stays well-formed. While it runs: `K` colour frames, all
`Ok`, one more `NEXT` than frames. Once ended: frames answered `Ok`, then the entry that ended it, as many `NEXT` as
entries, one `Done`, carrying the last answer. -/
def Obligations.StepKeepsTranscript : Prop :=
  ∀ s t : State, Sequenced s → Transcript s → step s = .next t → Transcript t

/-- R43, R110, R111, R125: in every state, the wire holds what the recorded requests put on it, in order: all of a request
answered `Ok`, a first part of one answered `Err`. -/
def Obligations.StepKeepsWireInOrder : Prop :=
  ∀ s t : State, WireFollowsTrace s → step s = .next t → WireFollowsTrace t

/-! ## Whole-machine results -/

/-- R98 and R99 (marked derived by the spec): from any idle state, a `WRITE` of a finite sequence whose requests the
transport answers ends with `TRACE` and `Done` as `WRITE_SPEC` says, after at most `N + 1` requests (R100). That the tokens
left at the head of the inbox go when the `WRITE` ends is the model's choice (assumption 13). -/
def Obligations.WriteAgreesWithItsSpecification : Prop :=
  ∀ (s : State) (colors : List Color) (rest : List Msg), s.cfg.wf = true → s.phase = .idle → s.req = none →
    s.inbox = ⟨.write, encode (.write colors true)⟩ :: rest → colors.length < s.replies.length →
    ∃ (n : Nat) (t : State), runFor n s = .next t ∧ t.phase = .idle ∧ t.req = none ∧
      t.trace = (writeSpec s.cfg (answerAt s.replies) colors 0).1 ∧
      t.hostOut = List.replicate t.trace.length .next ++
        [.done (writeSpec s.cfg (answerAt s.replies) colors 0).2] ∧
      t.trace.length ≤ colors.length + 1 ∧
      t.replies = s.replies.drop t.trace.length ∧ t.inbox = rest.dropWhile Msg.isToken

/-- R101: when every answer is `Ok`, exactly `N` colour frames of `3 * W` bytes and one trailing reset frame of `N_RESET`
bytes, in that order, and the result `Ok`; and, by R104 (marked derived by the spec, from decision D5), `N + 1` elements
asked for. -/
def Obligations.SuccessfulWriteSendsEveryFrame : Prop :=
  ∀ (s : State) (colors : List Color) (rest : List Msg), s.cfg.wf = true → s.phase = .idle → s.req = none →
    s.inbox = ⟨.write, encode (.write colors true)⟩ :: rest → colors.length < s.replies.length →
    (∀ i, i ≤ colors.length → answerAt s.replies i = .ok) →
    ∃ (n : Nat) (t : State), runFor n s = .next t ∧ t.phase = .idle ∧
      t.trace = (colors.map fun c => ⟨row s.cfg c.g ++ row s.cfg c.r ++ row s.cfg c.b, .ok⟩) ++
        [⟨zeros s.cfg.nReset, .ok⟩] ∧
      t.trace.length = colors.length + 1 ∧ (zeros s.cfg.nReset).length = s.cfg.nReset ∧
      (∀ c ∈ colors, (row s.cfg c.g ++ row s.cfg c.r ++ row s.cfg c.b).length = 3 * s.cfg.w) ∧
      t.hostOut = List.replicate (colors.length + 1) .next ++ [.done .ok]

/-- R105 (marked derived by the spec), on success: `WIRE` is the frames in order followed by the reset frame,
`3 * W * N + N_RESET` bytes, and `K` is `N` (R24). -/
def Obligations.SuccessfulWriteFillsTheWire : Prop :=
  ∀ (s : State) (colors : List Color) (rest : List Msg), s.cfg.wf = true → s.phase = .idle → s.req = none →
    s.inbox = ⟨.write, encode (.write colors true)⟩ :: rest → colors.length < s.replies.length →
    (∀ i, i ≤ colors.length → answerAt s.replies i = .ok) →
    ∃ (n : Nat) (t : State), runFor n s = .next t ∧ t.phase = .idle ∧ t.k = colors.length ∧
      t.wire = (colors.flatMap fun c => row s.cfg c.g ++ row s.cfg c.r ++ row s.cfg c.b) ++ zeros s.cfg.nReset ∧
      t.wire.length = 3 * s.cfg.w * colors.length + s.cfg.nReset

/-- R105 (marked derived by the spec) and R111 (decision D13), on failure: `WIRE` is the frames answered `Ok` followed by
the first `sent` bytes of the failed request, whatever `sent` is. -/
def Obligations.FailedWriteLeavesAPrefixOnTheWire : Prop :=
  ∀ (s : State) (colors : List Color) (rest : List Msg) (j sent : Nat) (e : TransportError) (last : List Byte),
    s.cfg.wf = true → s.phase = .idle → s.req = none →
    s.inbox = ⟨.write, encode (.write colors true)⟩ :: rest → j ≤ colors.length →
    (∀ i, i < j → s.replies[i]? = some .ok) → s.replies[j]? = some (.err e sent) →
    last = (match colors[j]? with
      | some c => row s.cfg c.g ++ row s.cfg c.r ++ row s.cfg c.b
      | none => zeros s.cfg.nReset) →
    ∃ (n : Nat) (t : State), runFor n s = .next t ∧ t.phase = .idle ∧
      t.wire = ((colors.take j).flatMap fun c => row s.cfg c.g ++ row s.cfg c.r ++ row s.cfg c.b) ++ last.take sent

/-- R103: when request `j` (counting from 0) is the first to fail, with `Err(e)`, it is the last one made: the
frames before it were answered `Ok`, it is colour frame `j` or the reset frame, the result is that same `e`; and, by R104
(marked derived by the spec, from decision D5), the host was asked for `j + 1` elements. -/
def Obligations.FirstFailureEndsTheWrite : Prop :=
  ∀ (s : State) (colors : List Color) (rest : List Msg) (j sent : Nat) (e : TransportError) (last : List Byte),
    s.cfg.wf = true → s.phase = .idle → s.req = none →
    s.inbox = ⟨.write, encode (.write colors true)⟩ :: rest → j ≤ colors.length →
    (∀ i, i < j → s.replies[i]? = some .ok) → s.replies[j]? = some (.err e sent) →
    last = (match colors[j]? with
      | some c => row s.cfg c.g ++ row s.cfg c.r ++ row s.cfg c.b
      | none => zeros s.cfg.nReset) →
    ∃ (n : Nat) (t : State), runFor n s = .next t ∧ t.phase = .idle ∧ t.req = none ∧
      t.trace = ((colors.take j).map fun c => ⟨row s.cfg c.g ++ row s.cfg c.r ++ row s.cfg c.b, .ok⟩) ++
        [⟨last, .err e⟩] ∧
      t.trace.length = j + 1 ∧
      t.hostOut = List.replicate (j + 1) .next ++ [.done (.err e)] ∧ t.replies = s.replies.drop (j + 1)

/-- R102: the zero-length `WRITE` makes exactly one request, the reset frame, and its result is the transport's answer to
it; `CIN` and `BUF` are not touched. -/
def Obligations.ZeroLengthWriteIsOneResetFrame : Prop :=
  ∀ (s : State) (a : Reply) (replies : List Reply) (rest : List Msg), s.cfg.wf = true → s.phase = .idle →
    s.req = none → s.inbox = ⟨.write, encode (.write [] true)⟩ :: rest → s.replies = a :: replies →
    ∃ t : State, runFor 3 s = .next t ∧ t.phase = .idle ∧ t.req = none ∧
      t.trace = [⟨zeros s.cfg.nReset, a.answer⟩] ∧ t.hostOut = [.next, .done a.answer] ∧
      t.replies = replies ∧ t.cin = s.cin ∧ t.buf = s.buf

/-- R30 and R26 (marked derived by the spec): from two idle states that agree on the configuration, the host's events and
the transport's answers, and on nothing else, a `WRITE` and everything after it looks alike at the block's outputs. -/
def Obligations.WriteForgetsTheHistory : Prop :=
  ∀ (s t : State) (m : Msg) (rest : List Msg), HostOnly s → s.cfg = t.cfg → s.phase = .idle → t.phase = .idle →
    s.req = none → t.req = none → s.inbox = m :: rest → t.inbox = m :: rest → m.port = .write →
    s.replies = t.replies → ∀ n, AlikeOutcome (runFor (n + 1) s) (runFor (n + 1) t)

/-- R9 and R112 (decision D15): the machine takes the transport's error type as a parameter. Carrying every error value in
a state from any type to any other carries them over in the step's outcome and changes nothing else, so the machine never
looks inside one; and the step behind the host's interface is this machine at one such type (assumption 2). -/
def Obligations.ErrorValuesAreOpaque : Prop :=
  (∀ (E F : Type) (f : E → F) (s : State E), stepOf (s.mapErr f) = mapErrOutcome f (stepOf s)) ∧
    ∀ s : State, step s = stepOf s

/-! ## A sequence that never ends (R100 (c)) -/

/-- R100 (c) (decision D19): while the host gives colours for ever and every answer is `Ok`, whenever they come, no run of
any length ends: every request is a colour frame, no reset frame is sent and no `Done` is delivered. Inputs over time are
assumption 31. -/
def Obligations.EndlessSequenceNeverEnds : Prop :=
  ∀ (env : Nat → Arrivals) (colors : List Color) (s : State), OnlyColours env → s.cfg.wf = true → s.phase = .idle →
    s.req = none → s.inbox = [⟨.write, encode (.write colors false)⟩] → (∀ a ∈ s.replies, a = .ok) →
    ∀ n, ∃ t : State, runIn env (n + 1) s = .next t ∧
      (t.phase = .fetch ∧ t.req = none ∨
        t.phase = .txc ∧ ∃ c : Color, t.req = some (row s.cfg c.g ++ row s.cfg c.r ++ row s.cfg c.b)) ∧
      (∀ e ∈ t.trace, ∃ c : Color, e = ⟨row s.cfg c.g ++ row s.cfg c.r ++ row s.cfg c.b, .ok⟩) ∧
      t.hostOut = List.replicate (t.trace.length + 1) .next

/-- R100 (c) (decision D19): for every infinite sequence, when each `NEXT` is answered with the next colour and each request
with `Ok`, the first `n` frames go out in order in `2 * n + 1` steps, for every `n`: `FW` sends colour frames for ever.
Inputs over time are assumption 31. -/
def Obligations.EndlessSequenceSendsEveryFrame : Prop :=
  ∀ (colors : Nat → Color) (s : State), s.cfg.wf = true → s.phase = .idle → s.req = none →
    s.inbox = [⟨.write, encode (.write [] false)⟩] → s.replies = [] →
    ∀ n, ∃ t : State, runIn (endless colors) (2 * n + 1) s = .next t ∧ t.phase = .fetch ∧ t.req = none ∧ t.k = n ∧
      t.trace = (List.range n).map fun i =>
        ⟨row s.cfg (colors i).g ++ row s.cfg (colors i).r ++ row s.cfg (colors i).b, .ok⟩
end

