-- ==== Sys2Proof/Laws/State.lean ====
section
/-! SUPPORT. One lemma per field per named operation over the state: what the field holds after it. -/

namespace Sys2Proof.Machine

variable {E : Type} (s : State E)

/-! ### `putResult` -/

@[simp] theorem putResult_cfg (r : OpResult E) : (putResult r s).cfg = s.cfg := rfl
@[simp] theorem putResult_phase (r : OpResult E) : (putResult r s).phase = s.phase := rfl
@[simp] theorem putResult_cin (r : OpResult E) : (putResult r s).cin = s.cin := rfl
@[simp] theorem putResult_buf (r : OpResult E) : (putResult r s).buf = s.buf := rfl
@[simp] theorem putResult_line (r : OpResult E) : (putResult r s).line = s.line := rfl
@[simp] theorem putResult_trace (r : OpResult E) : (putResult r s).trace = s.trace := rfl
@[simp] theorem putResult_wire (r : OpResult E) : (putResult r s).wire = s.wire := rfl
@[simp] theorem putResult_k (r : OpResult E) : (putResult r s).k = s.k := rfl
@[simp] theorem putResult_hostOut (r : OpResult E) : (putResult r s).hostOut = s.hostOut := rfl
@[simp] theorem putResult_res (r : OpResult E) : (putResult r s).res = r := rfl
@[simp] theorem putResult_req (r : OpResult E) : (putResult r s).req = s.req := rfl
@[simp] theorem putResult_inbox (r : OpResult E) : (putResult r s).inbox = s.inbox := rfl
@[simp] theorem putResult_replies (r : OpResult E) : (putResult r s).replies = s.replies := rfl
@[simp] theorem putResult_draw (r : OpResult E) : (putResult r s).draw = s.draw := rfl

/-! ### `packBuf` -/

@[simp] theorem packBuf_cfg (c : Color) : (packBuf c s).cfg = s.cfg := rfl
@[simp] theorem packBuf_phase (c : Color) : (packBuf c s).phase = s.phase := rfl
@[simp] theorem packBuf_cin (c : Color) : (packBuf c s).cin = s.cin := rfl
@[simp] theorem packBuf_buf (c : Color) : (packBuf c s).buf = frame s.cfg c := rfl
@[simp] theorem packBuf_line (c : Color) : (packBuf c s).line = s.line := rfl
@[simp] theorem packBuf_trace (c : Color) : (packBuf c s).trace = s.trace := rfl
@[simp] theorem packBuf_wire (c : Color) : (packBuf c s).wire = s.wire := rfl
@[simp] theorem packBuf_k (c : Color) : (packBuf c s).k = s.k := rfl
@[simp] theorem packBuf_hostOut (c : Color) : (packBuf c s).hostOut = s.hostOut := rfl
@[simp] theorem packBuf_res (c : Color) : (packBuf c s).res = s.res := rfl
@[simp] theorem packBuf_req (c : Color) : (packBuf c s).req = s.req := rfl
@[simp] theorem packBuf_inbox (c : Color) : (packBuf c s).inbox = s.inbox := rfl
@[simp] theorem packBuf_replies (c : Color) : (packBuf c s).replies = s.replies := rfl
@[simp] theorem packBuf_draw (c : Color) : (packBuf c s).draw = s.draw := rfl

/-! ### `enterFetch` -/

@[simp] theorem enterFetch_cfg : (enterFetch s).cfg = s.cfg := rfl
@[simp] theorem enterFetch_phase : (enterFetch s).phase = .fetch := rfl
@[simp] theorem enterFetch_cin : (enterFetch s).cin = s.cin := rfl
@[simp] theorem enterFetch_buf : (enterFetch s).buf = s.buf := rfl
@[simp] theorem enterFetch_line : (enterFetch s).line = s.line := rfl
@[simp] theorem enterFetch_trace : (enterFetch s).trace = s.trace := rfl
@[simp] theorem enterFetch_wire : (enterFetch s).wire = s.wire := rfl
@[simp] theorem enterFetch_k : (enterFetch s).k = s.k := rfl
@[simp] theorem enterFetch_hostOut : (enterFetch s).hostOut = s.hostOut ++ [.next] := rfl
@[simp] theorem enterFetch_res : (enterFetch s).res = s.res := rfl
@[simp] theorem enterFetch_req : (enterFetch s).req = s.req := rfl
@[simp] theorem enterFetch_inbox : (enterFetch s).inbox = s.inbox := rfl
@[simp] theorem enterFetch_replies : (enterFetch s).replies = s.replies := rfl
@[simp] theorem enterFetch_draw : (enterFetch s).draw = s.draw := rfl

/-! ### `start` -/

@[simp] theorem start_cfg : (start s).cfg = s.cfg := rfl
@[simp] theorem start_phase : (start s).phase = .fetch := rfl
@[simp] theorem start_cin : (start s).cin = s.cin := rfl
@[simp] theorem start_buf : (start s).buf = s.buf := rfl
@[simp] theorem start_line : (start s).line = s.line := rfl
@[simp] theorem start_trace : (start s).trace = [] := rfl
@[simp] theorem start_wire : (start s).wire = [] := rfl
@[simp] theorem start_k : (start s).k = 0 := rfl
@[simp] theorem start_hostOut : (start s).hostOut = [.next] := rfl
@[simp] theorem start_res : (start s).res = s.res := rfl
@[simp] theorem start_req : (start s).req = s.req := rfl
@[simp] theorem start_inbox : (start s).inbox = s.inbox := rfl
@[simp] theorem start_replies : (start s).replies = s.replies := rfl
@[simp] theorem start_draw : (start s).draw = s.draw := rfl

/-! ### `deliverDone` -/

@[simp] theorem deliverDone_cfg (a : Answer E) : (deliverDone a s).cfg = s.cfg := rfl
@[simp] theorem deliverDone_phase (a : Answer E) : (deliverDone a s).phase = .idle := rfl
@[simp] theorem deliverDone_cin (a : Answer E) : (deliverDone a s).cin = s.cin := rfl
@[simp] theorem deliverDone_buf (a : Answer E) : (deliverDone a s).buf = s.buf := rfl
@[simp] theorem deliverDone_line (a : Answer E) : (deliverDone a s).line = s.line := rfl
@[simp] theorem deliverDone_trace (a : Answer E) : (deliverDone a s).trace = s.trace := rfl
@[simp] theorem deliverDone_wire (a : Answer E) : (deliverDone a s).wire = s.wire := rfl
@[simp] theorem deliverDone_k (a : Answer E) : (deliverDone a s).k = s.k := rfl
@[simp] theorem deliverDone_hostOut (a : Answer E) : (deliverDone a s).hostOut = s.hostOut ++ [.done a] := rfl
@[simp] theorem deliverDone_res (a : Answer E) : (deliverDone a s).res = s.res := rfl
@[simp] theorem deliverDone_req (a : Answer E) : (deliverDone a s).req = s.req := rfl
@[simp] theorem deliverDone_inbox (a : Answer E) : (deliverDone a s).inbox = s.inbox.dropWhile Msg.isToken := rfl
@[simp] theorem deliverDone_replies (a : Answer E) : (deliverDone a s).replies = s.replies := rfl
@[simp] theorem deliverDone_draw (a : Answer E) : (deliverDone a s).draw = s.draw := rfl

/-! ### `raiseTransportFailure` -/

@[simp] theorem raiseTransportFailure_cfg (e : E) : (raiseTransportFailure e s).cfg = s.cfg := rfl
@[simp] theorem raiseTransportFailure_phase (e : E) : (raiseTransportFailure e s).phase = .idle := rfl
@[simp] theorem raiseTransportFailure_cin (e : E) : (raiseTransportFailure e s).cin = s.cin := rfl
@[simp] theorem raiseTransportFailure_buf (e : E) : (raiseTransportFailure e s).buf = s.buf := rfl
@[simp] theorem raiseTransportFailure_line (e : E) : (raiseTransportFailure e s).line = s.line := rfl
@[simp] theorem raiseTransportFailure_trace (e : E) : (raiseTransportFailure e s).trace = s.trace := rfl
@[simp] theorem raiseTransportFailure_wire (e : E) : (raiseTransportFailure e s).wire = s.wire := rfl
@[simp] theorem raiseTransportFailure_k (e : E) : (raiseTransportFailure e s).k = s.k := rfl
@[simp] theorem raiseTransportFailure_hostOut (e : E) : (raiseTransportFailure e s).hostOut = s.hostOut ++ [.done (.err e)] := rfl
@[simp] theorem raiseTransportFailure_res (e : E) : (raiseTransportFailure e s).res = s.res := rfl
@[simp] theorem raiseTransportFailure_req (e : E) : (raiseTransportFailure e s).req = s.req := rfl
@[simp] theorem raiseTransportFailure_inbox (e : E) : (raiseTransportFailure e s).inbox = s.inbox.dropWhile Msg.isToken := rfl
@[simp] theorem raiseTransportFailure_replies (e : E) : (raiseTransportFailure e s).replies = s.replies := rfl
@[simp] theorem raiseTransportFailure_draw (e : E) : (raiseTransportFailure e s).draw = s.draw := rfl

/-! ### `settle` -/

@[simp] theorem settle_cfg (bytes : List Byte) (a : Reply E) : (settle bytes a s).cfg = s.cfg := rfl
@[simp] theorem settle_phase (bytes : List Byte) (a : Reply E) : (settle bytes a s).phase = s.phase := rfl
@[simp] theorem settle_cin (bytes : List Byte) (a : Reply E) : (settle bytes a s).cin = s.cin := rfl
@[simp] theorem settle_buf (bytes : List Byte) (a : Reply E) : (settle bytes a s).buf = s.buf := rfl
@[simp] theorem settle_line (bytes : List Byte) (a : Reply E) : (settle bytes a s).line = idleAfter s (a.transmitted bytes) := rfl
@[simp] theorem settle_trace (bytes : List Byte) (a : Reply E) : (settle bytes a s).trace = s.trace ++ [⟨bytes, a.answer⟩] := rfl
@[simp] theorem settle_wire (bytes : List Byte) (a : Reply E) : (settle bytes a s).wire = s.wire ++ a.transmitted bytes := rfl
@[simp] theorem settle_k (bytes : List Byte) (a : Reply E) : (settle bytes a s).k = s.k := rfl
@[simp] theorem settle_hostOut (bytes : List Byte) (a : Reply E) : (settle bytes a s).hostOut = s.hostOut := rfl
@[simp] theorem settle_res (bytes : List Byte) (a : Reply E) : (settle bytes a s).res = .answer a.answer := rfl
@[simp] theorem settle_req (bytes : List Byte) (a : Reply E) : (settle bytes a s).req = none := rfl
@[simp] theorem settle_inbox (bytes : List Byte) (a : Reply E) : (settle bytes a s).inbox = s.inbox := rfl
@[simp] theorem settle_replies (bytes : List Byte) (a : Reply E) : (settle bytes a s).replies = s.replies := rfl
@[simp] theorem settle_draw (bytes : List Byte) (a : Reply E) : (settle bytes a s).draw = s.draw + 1 := rfl

/-! ### `place` -/

@[simp] theorem place_cfg (m : Msg) : (place m s).cfg = s.cfg := rfl
@[simp] theorem place_phase (m : Msg) : (place m s).phase = takingPhase m.port s.phase := rfl
@[simp] theorem place_cin (m : Msg) : (place m s).cin = s.cin := rfl
@[simp] theorem place_buf (m : Msg) : (place m s).buf = s.buf := rfl
@[simp] theorem place_line (m : Msg) : (place m s).line = s.line := rfl
@[simp] theorem place_trace (m : Msg) : (place m s).trace = s.trace := rfl
@[simp] theorem place_wire (m : Msg) : (place m s).wire = s.wire := rfl
@[simp] theorem place_k (m : Msg) : (place m s).k = s.k := rfl
@[simp] theorem place_hostOut (m : Msg) : (place m s).hostOut = s.hostOut := rfl
@[simp] theorem place_res (m : Msg) : (place m s).res = s.res := rfl
@[simp] theorem place_req (m : Msg) : (place m s).req = none := rfl
@[simp] theorem place_inbox (m : Msg) : (place m s).inbox = m :: s.inbox := rfl
@[simp] theorem place_replies (m : Msg) : (place m s).replies = s.replies := rfl
@[simp] theorem place_draw (m : Msg) : (place m s).draw = s.draw := rfl

/-! ### `arrive` -/

@[simp] theorem arrive_cfg (a : Arrivals E) : (arrive a s).cfg = s.cfg := rfl
@[simp] theorem arrive_phase (a : Arrivals E) : (arrive a s).phase = s.phase := rfl
@[simp] theorem arrive_cin (a : Arrivals E) : (arrive a s).cin = s.cin := rfl
@[simp] theorem arrive_buf (a : Arrivals E) : (arrive a s).buf = s.buf := rfl
@[simp] theorem arrive_line (a : Arrivals E) : (arrive a s).line = s.line := rfl
@[simp] theorem arrive_trace (a : Arrivals E) : (arrive a s).trace = s.trace := rfl
@[simp] theorem arrive_wire (a : Arrivals E) : (arrive a s).wire = s.wire := rfl
@[simp] theorem arrive_k (a : Arrivals E) : (arrive a s).k = s.k := rfl
@[simp] theorem arrive_hostOut (a : Arrivals E) : (arrive a s).hostOut = s.hostOut := rfl
@[simp] theorem arrive_res (a : Arrivals E) : (arrive a s).res = s.res := rfl
@[simp] theorem arrive_req (a : Arrivals E) : (arrive a s).req = s.req := rfl
@[simp] theorem arrive_inbox (a : Arrivals E) : (arrive a s).inbox = s.inbox ++ a.msgs := rfl
@[simp] theorem arrive_replies (a : Arrivals E) : (arrive a s).replies = s.replies ++ a.replies := rfl
@[simp] theorem arrive_draw (a : Arrivals E) : (arrive a s).draw = s.draw := rfl

/-! ### `State.reset` -/

@[simp] theorem State.resetOf_cfg : (State.resetOf E).cfg = cfgRef := rfl
@[simp] theorem State.resetOf_phase : (State.resetOf E).phase = .idle := rfl
@[simp] theorem State.resetOf_cin : (State.resetOf E).cin = ⟨0#8, 0#8, 0#8⟩ := rfl
@[simp] theorem State.resetOf_buf : (State.resetOf E).buf = List.replicate 12 0#8 := rfl
@[simp] theorem State.resetOf_line : (State.resetOf E).line = .low := rfl
@[simp] theorem State.resetOf_trace : (State.resetOf E).trace = [] := rfl
@[simp] theorem State.resetOf_wire : (State.resetOf E).wire = [] := rfl
@[simp] theorem State.resetOf_k : (State.resetOf E).k = 0 := rfl
@[simp] theorem State.resetOf_hostOut : (State.resetOf E).hostOut = [] := rfl
@[simp] theorem State.resetOf_res : (State.resetOf E).res = .none := rfl
@[simp] theorem State.resetOf_req : (State.resetOf E).req = none := rfl
@[simp] theorem State.resetOf_inbox : (State.resetOf E).inbox = [] := rfl
@[simp] theorem State.resetOf_replies : (State.resetOf E).replies = [] := rfl
@[simp] theorem State.resetOf_draw : (State.resetOf E).draw = 0 := rfl
@[simp] theorem State.reset_cfg : State.reset.cfg = cfgRef := rfl
@[simp] theorem State.reset_phase : State.reset.phase = .idle := rfl
@[simp] theorem State.reset_cin : State.reset.cin = ⟨0#8, 0#8, 0#8⟩ := rfl
@[simp] theorem State.reset_buf : State.reset.buf = List.replicate 12 0#8 := rfl
@[simp] theorem State.reset_line : State.reset.line = .low := rfl
@[simp] theorem State.reset_trace : State.reset.trace = [] := rfl
@[simp] theorem State.reset_wire : State.reset.wire = [] := rfl
@[simp] theorem State.reset_k : State.reset.k = 0 := rfl
@[simp] theorem State.reset_hostOut : State.reset.hostOut = [] := rfl
@[simp] theorem State.reset_res : State.reset.res = .none := rfl
@[simp] theorem State.reset_req : State.reset.req = none := rfl
@[simp] theorem State.reset_inbox : State.reset.inbox = [] := rfl
@[simp] theorem State.reset_replies : State.reset.replies = [] := rfl
@[simp] theorem State.reset_draw : State.reset.draw = 0 := rfl

end Sys2Proof.Machine
end

