-- ==== Sys2Proof/Laws/Ops.lean ====
section
/-! SUPPORT. One specification per shared operation: everything it can do, in the form later proofs cite. -/

namespace Sys2Proof.Machine

variable {E : Type}

/-- Issuing a request answers a next state exactly when none is outstanding (R124). -/
theorem issue_eq_next {bytes : List Byte} {p : Phase} {s t : State E} :
    issue bytes p s = .next t ↔ s.req = none ∧ t = { s with req := some bytes, phase := p } := by
  unfold issue
  split <;> simp_all [eq_comm]

theorem issue_of_none {bytes : List Byte} {p : Phase} {s : State E} (h : s.req = none) :
    issue bytes p s = .next { s with req := some bytes, phase := p } :=
  issue_eq_next.2 ⟨h, rfl⟩

theorem issue_of_some {bytes r : List Byte} {p : Phase} {s : State E} (h : s.req = some r) :
    issue bytes p s = .refused .requestOutstanding := by
  simp [issue, h]

/-- The sequencer issues exactly from `FETCH` with nothing outstanding (R91, R92, R97). -/
theorem issueInFetch_eq_next {bytes : List Byte} {p : Phase} {s t : State E} :
    issueInFetch bytes p s = .next t ↔
      s.phase = .fetch ∧ s.req = none ∧ t = { s with req := some bytes, phase := p } := by
  unfold issueInFetch
  split <;> simp_all [issue_eq_next]

theorem issueInFetch_of_fetch {bytes : List Byte} {p : Phase} {s : State E} (hp : s.phase = .fetch)
    (hr : s.req = none) : issueInFetch bytes p s = .next { s with req := some bytes, phase := p } :=
  issueInFetch_eq_next.2 ⟨hp, hr, rfl⟩

theorem issueInFetch_of_ne_fetch {bytes : List Byte} {p : Phase} {s : State E} (hp : s.phase ≠ .fetch) :
    issueInFetch bytes p s = .refused .notFetching := by
  unfold issueInFetch
  split <;> simp_all

/-! The sequencer's side of an answer, phase by phase (R93 to R95). -/

theorem advance_txc_ok {s : State E} (h : s.phase = .txc) :
    advance .ok s = enterFetch { s with k := s.k + 1 } := by
  simp [advance, h]

theorem advance_txr_ok {s : State E} (h : s.phase = .txr) : advance .ok s = deliverDone .ok s := by
  simp [advance, h]

theorem advance_err {s : State E} {e : E} (h : s.phase = .txc ∨ s.phase = .txr) :
    advance (.err e) s = raiseTransportFailure e s := by
  obtain h | h := h <;> simp [advance, h]

theorem advance_bare {s : State E} {a : Answer E} (h : s.phase = .idle ∨ s.phase = .fetch) : advance a s = s := by
  obtain h | h := h <;> simp [advance, h]

theorem awaitAnswer_nil {bytes : List Byte} {s : State E} (h : s.replies = []) : awaitAnswer bytes s = s := by
  simp [awaitAnswer, h]

theorem awaitAnswer_cons {bytes : List Byte} {s : State E} {a : Reply E} {rest : List (Reply E)}
    (h : s.replies = a :: rest) :
    awaitAnswer bytes s = advance a.answer (settle bytes a { s with replies := rest }) := by
  simp [awaitAnswer, h]

/-! One step, by what there is to take. -/

theorem step_refuses {s : State} (h : s.cfg.wf = false) : step s = .refused .configuration := by
  simp [step, stepWith, h]

theorem step_outstanding {s : State} {bytes : List Byte} (hc : s.cfg.wf = true) (hr : s.req = some bytes) :
    step s = .next (awaitAnswer bytes s) := by
  simp [step, stepWith, hc, hr]

/-- The step in which the transport answers. -/
theorem step_answer {s : State} {bytes : List Byte} {a : Reply} {rest : List Reply} (hc : s.cfg.wf = true)
    (hr : s.req = some bytes) (ha : s.replies = a :: rest) :
    step s = .next (advance a.answer (settle bytes a { s with replies := rest })) := by
  rw [step_outstanding hc hr, awaitAnswer_cons ha]

theorem step_hold {s : State} (hc : s.cfg.wf = true) (hr : s.req = none) (hi : s.inbox = []) : step s = .next s := by
  simp [step, stepWith, hc, hr, hi]

theorem step_take {s : State} {m : Msg} {rest : List Msg} {i : Instr} (hc : s.cfg.wf = true) (hr : s.req = none)
    (hi : s.inbox = m :: rest) (hm : fetch m = .ok i) : step s = exec i { s with inbox := rest } := by
  simp [step, stepWith, hc, hr, hi, hm]

theorem step_reject {s : State} {m : Msg} {rest : List Msg} {why : Reject} (hc : s.cfg.wf = true)
    (hr : s.req = none) (hi : s.inbox = m :: rest) (hm : fetch m = .error why) :
    step s = .refused (.undecodable why) := by
  simp [step, stepWith, hc, hr, hi, hm]

/-- Everything a step that answers a next state can be: an answer taken, a hold on the transport, a hold on the host, or
one operation. -/
theorem stepWith_next_cases {run : Instr → State E → Host.Outcome (State E) Fault Refusal} {s t : State E}
    (h : stepWith run s = .next t) :
    (∃ bytes a rest, s.req = some bytes ∧ s.replies = a :: rest ∧
        t = advance a.answer (settle bytes a { s with replies := rest })) ∨
    t = s ∨
    (∃ m rest i, s.req = none ∧ s.inbox = m :: rest ∧ fetch m = .ok i ∧ run i { s with inbox := rest } = .next t) := by
  unfold stepWith at h
  split at h
  · split at h
    · rename_i bytes hr
      cases h
      cases hrep : s.replies with
      | nil => exact .inr (.inl (awaitAnswer_nil hrep))
      | cons a rest => exact .inl ⟨bytes, a, rest, hr, rfl, awaitAnswer_cons hrep⟩
    · rename_i hr
      split at h
      · cases h
        exact .inr (.inl rfl)
      · rename_i m rest hi
        split at h
        · rename_i i hm
          exact .inr (.inr ⟨m, rest, i, hr, hi, hm, h⟩)
        · cases h
  · cases h

theorem step_next_cases {s t : State} (h : step s = .next t) :
    (∃ bytes a rest, s.req = some bytes ∧ s.replies = a :: rest ∧
        t = advance a.answer (settle bytes a { s with replies := rest })) ∨
    t = s ∨
    (∃ m rest i, s.req = none ∧ s.inbox = m :: rest ∧ fetch m = .ok i ∧ exec i { s with inbox := rest } = .next t) :=
  stepWith_next_cases h

/-- The dispatch at any error type is `exec` at the host's. -/
theorem execOf_eq_exec (i : Instr) (s : State) : execOf i s = exec i s := by
  cases i <;> rfl

/-! A run with inputs, one step at a time. -/

theorem runIn_succ_of_next {env : Nat → Arrivals} {n : Nat} {s t : State} (h : runIn env n s = .next t) :
    runIn env (n + 1) s = stepIn (env n) t := by
  simp [runIn, h]

/-! What each operation that moves the state answers. -/

theorem execWrite_eq_next {colors : List Color} {ended : Bool} {s t : State E} :
    execWrite colors ended s = .next t ↔
      s.phase = .idle ∧ t = { start s with inbox := hostTokens colors ended ++ s.inbox } := by
  unfold execWrite
  split <;> rename_i h <;> simp [h, eq_comm]

theorem execTokenColor_eq_next {c : Color} {s t : State E} :
    execTokenColor c s = .next t ↔ s.phase = .fetch ∧ s.req = none ∧
      t = { s with cin := c, buf := frame s.cfg c, req := some (frame s.cfg c), phase := .txc } := by
  simp only [execTokenColor, issueInFetch_eq_next]
  rfl

theorem execTokenEnd_eq_next {s t : State E} :
    execTokenEnd s = .next t ↔ s.phase = .fetch ∧ s.req = none ∧
      t = { s with req := some (zeros s.cfg.nReset), phase := .txr } :=
  issueInFetch_eq_next

theorem execEmitc_eq_next {s t : State E} :
    execEmitc s = .next t ↔ s.phase = .fetch ∧ s.req = none ∧ t = { s with req := some s.buf, phase := .txc } :=
  issueInFetch_eq_next

theorem execEmitr_eq_next {s t : State E} :
    execEmitr s = .next t ↔ s.phase = .fetch ∧ s.req = none ∧
      t = { s with req := some (zeros s.cfg.nReset), phase := .txr } :=
  issueInFetch_eq_next

theorem execTxwrite_eq_next {bytes : List Byte} {s t : State E} :
    execTxwrite bytes s = .next t ↔ s.req = none ∧ t = { s with req := some bytes } := by
  simp only [execTxwrite, issue_eq_next]

end Sys2Proof.Machine
end

