-- ==== Sys2Proof/Laws/Pattern.lean ====
section
/-! SUPPORT. What the generator, the table and its one read give: sizes, and that reading row `v` of the flat table gives
`ROW(v)` (R32, R69 to R71, R80). -/

namespace Sys2Proof

theorem Width.bytes_pos (w : Width) : 0 < w.bytes := by cases w <;> simp [Width.bytes]

theorem Cfg.w_pos (c : Cfg) : 0 < c.w := Width.bytes_pos c.width

end Sys2Proof

namespace Sys2Proof.Machine

@[simp] theorem zeros_length (n : Nat) : (zeros n).length = n := by simp [zeros]

/-- A bit of the word is a bit of one of its two groups. -/
theorem word_getLsbD (v : Byte) (i : Nat) : (word v).getLsbD i =
    if i < 16 then (group (loNibble v)).getLsbD i else (group (hiNibble v)).getLsbD (i - 16) :=
  BitVec.getLsbD_append

theorem row_w4 {c : Cfg} (h : c.width = .w4) (v : Byte) : row c v = wordToBytes (word v) := by
  simp [row, h]

theorem row_w3 {c : Cfg} {t : Table3} (h : c.width = .w3 t) (v : Byte) :
    row c v = row3ToBytes (t[v.toNat]'v.isLt) := by
  simp [row, h]

@[simp] theorem row_length (c : Cfg) (v : Byte) : (row c v).length = c.w := by
  cases h : c.width <;> simp [row, h, Cfg.w, Width.bytes, wordToBytes, row3ToBytes]

@[simp] theorem tbuild_length (c : Cfg) : (tbuild c).length = 256 := by simp [tbuild]

theorem mem_tbuild_length {c : Cfg} {r : List Byte} (h : r ∈ tbuild c) : r.length = c.w := by
  simp only [tbuild, List.mem_map] at h
  obtain ⟨v, -, rfl⟩ := h
  exact row_length c _

theorem tbuild_getElem? (c : Cfg) (v : Byte) : (tbuild c)[v.toNat]? = some (row c v) := by
  have hv : v.toNat < 256 := v.isLt
  simp [tbuild, hv]

/-- Dropping whole rows of equal width from a flattened table drops that many rows. -/
theorem drop_flatten_of_length {w : Nat} :
    ∀ (rows : List (List Byte)) (v : Nat), (∀ r ∈ rows, r.length = w) →
      rows.flatten.drop (v * w) = (rows.drop v).flatten
  | [], v, _ => by simp
  | r :: rows, 0, _ => by simp
  | r :: rows, v + 1, h => by
    have hr : r.length = w := h r (by simp)
    have ih := drop_flatten_of_length rows v fun x hx => h x (by simp [hx])
    rw [List.flatten_cons, List.drop_succ_cons, ← ih, Nat.add_mul, Nat.one_mul, Nat.add_comm, ← List.drop_drop]
    simp [← hr]

/-- The row read: `MemRead(v * W, W)` is row `v` (R71, R80). -/
theorem memRead_row (c : Cfg) (v : Byte) : memRead c (v.toNat * c.w) c.w = some (row c v) := by
  have hv : v.toNat < 256 := v.isLt
  have hfit : v.toNat * c.w + c.w ≤ 256 * c.w := by
    have := Nat.mul_le_mul_right c.w (Nat.succ_le_of_lt hv)
    rwa [Nat.succ_mul] at this
  have hget := tbuild_getElem? c v
  have hlt : v.toNat < (tbuild c).length := by simpa using hv
  rw [List.getElem?_eq_getElem hlt, Option.some.injEq] at hget
  rw [memRead, if_pos ⟨rfl, Nat.mul_mod_left _ _, hfit⟩,
    drop_flatten_of_length _ _ fun r hr => mem_tbuild_length hr, List.drop_eq_getElem_cons hlt, List.flatten_cons,
    hget, List.take_left' (row_length c v)]

@[simp] theorem lookup_eq_row (c : Cfg) (v : Byte) : lookup c v = row c v := by
  simp [lookup, memRead_row]

/-- Row `v` of a uniform 3-bit table is the word of `v`, as three bytes. -/
theorem uniformTable3_getElem (p0 p1 : BitVec 3) (v : Byte) :
    (uniformTable3 p0 p1)[v.toNat]'v.isLt = row3OfWord (uniformWord p0 p1 v) := by
  simp [uniformTable3]

theorem frame_eq_specFrame (c : Cfg) (col : Color) : frame c col = specFrame c col := by
  simp [frame, specFrame]

@[simp] theorem specFrame_length (c : Cfg) (col : Color) : (specFrame c col).length = 3 * c.w := by
  simp [specFrame]; omega

@[simp] theorem frame_length (c : Cfg) (col : Color) : (frame c col).length = 3 * c.w := by
  rw [frame_eq_specFrame, specFrame_length]

end Sys2Proof.Machine
end

