-- ==== Sys2Proof/Laws/PerInstr.lean ====
section
/-! SUPPORT. Per-instruction laws. `EncodedSize`: an operation's encoding has the number of bytes its format has (R48 to
R56, R59). -/

namespace Sys2Proof.Laws.EncodedSize

/-- How many bytes the format of an operation has: whole bytes for the fixed formats, four for a token, and as many as
the operand for a byte list. -/
def size : Instr → Nat
  | .sym _ => 1
  | .encn _ => 2
  | .encb _ => 4
  | .row _ => 4
  | .tbuild => 4
  | .lookup _ => 1
  | .decode s => s.length
  | .pack _ => 12
  | .emitc => 12
  | .emitr => 1
  | .write colors ended => 4 * (colors.length + ended.toNat)
  | .tokenColor _ => 4
  | .tokenEnd => 4
  | .txwrite s => s.length
  | .shift _ => 1

def Statement (i : Instr) : Prop := (encode i).length = size i

theorem sym (b : Bool) : Statement (.sym b) := rfl
theorem encn (n : BitVec 4) : Statement (.encn n) := rfl
theorem encb (v : Byte) : Statement (.encb v) := rfl
theorem row (v : Byte) : Statement (.row v) := rfl
theorem tbuild : Statement .tbuild := rfl
theorem lookup (v : Byte) : Statement (.lookup v) := rfl
theorem decode (s : List Byte) : Statement (.decode s) := rfl
theorem pack (c : Color) : Statement (.pack c) := rfl
theorem emitc : Statement .emitc := rfl
theorem emitr : Statement .emitr := rfl
theorem write (colors : List Color) (ended : Bool) : Statement (.write colors ended) := by
  have h : (colors.flatMap colorToken).length = 4 * colors.length := by
    induction colors with
    | nil => rfl
    | cons c cs ih => simp [List.flatMap_cons, colorToken, ih]; omega
  cases ended <;> simp [Statement, size, encode, h, endToken, Nat.mul_add]
theorem tokenColor (c : Color) : Statement (.tokenColor c) := rfl
theorem tokenEnd : Statement .tokenEnd := rfl
theorem txwrite (s : List Byte) : Statement (.txwrite s) := rfl
theorem shift (x : Byte) : Statement (.shift x) := rfl

end Sys2Proof.Laws.EncodedSize
end

