-- ==== Sys2Proof/Tests/Slice0.lean ====
section
/-! SUPPORT. Small tests: the check of well-formedness, one written-out word per operation, the spec's own vectors
(95_test_vectors.md), single steps, and a witness for the hypotheses of every statement. -/

namespace Sys2Proof.Tests

open Sys2Proof Sys2Proof.Machine

/-! ## Helpers -/

/-- `p` holds of the next state an outcome answers. -/
def onNext (o : Host.Outcome State Fault Refusal) (p : State → Bool) : Bool :=
  match o with
  | .next t => p t
  | .fault _ => false
  | .refused _ => false

/-- The outcome is this refusal. -/
def isRefused (o : Host.Outcome State Fault Refusal) (r : Refusal) : Bool :=
  match o with
  | .next _ => false
  | .fault _ => false
  | .refused q => q == r

/-- The colour of program P2 (95, Part 4). -/
def red4C : Color := ⟨0x4C#8, 0x00#8, 0x00#8⟩

/-- The frame of that colour (95, P2). -/
def frame4C : List Byte :=
  [0x44#8, 0x44#8, 0x44#8, 0x44#8, 0x47#8, 0x44#8, 0x77#8, 0x44#8, 0x44#8, 0x44#8, 0x44#8, 0x44#8]

/-- A `WRITE` of one colour waits at the head of the inbox. -/
def writing : State :=
  { State.reset with inbox := [⟨.write, encode (.write [red4C] true)⟩], replies := [.ok, .ok] }

/-- In `FETCH`, with the host's answer waiting. -/
def fetching (tokens : List Msg) (replies : List Reply) : State :=
  { State.reset with phase := .fetch, hostOut := [.next], inbox := tokens, replies := replies }

/-- In `TXC`, the frame of `red4C` outstanding. -/
def inTxc (replies : List Reply) : State :=
  { State.reset with phase := .txc, cin := red4C, buf := frame4C, req := some frame4C, hostOut := [.next],
                     replies := replies }

/-- In `TXR`, the reset frame outstanding. -/
def inTxr (replies : List Reply) : State :=
  { State.reset with phase := .txr, req := some (zeros 143), hostOut := [.next], replies := replies }

/-- A `TABLE3` whose every row is `01 02 03`: any total function is one (R6). -/
def someTable3 : Table3 := Vector.replicate 256 ⟨0x01#8, 0x02#8, 0x03#8⟩

/-- A block with `W = 3` (95, group 2.7: (3, 2 400 000, 90) is accepted). -/
def narrow : State :=
  { State.reset with cfg := { width := .w3 someTable3, fSpiHz := 2400000, nReset := 90, idle := .low },
                     buf := List.replicate 9 0#8 }

/-! ## Well-formedness and configurations (R5 to R8, R107; 95, group 2.7) -/

theorem test_wf_refuses_other_length : (Instr.txwrite [0x44#8]).wf cfgRef = false := by decide
theorem test_wf_accepts_frame : (Instr.txwrite frame4C).wf cfgRef = true := by decide
theorem test_wf_accepts_reset_frame : (Instr.txwrite (zeros 143)).wf cfgRef = true := by
  simp [Instr.wf, zeros, cfgRef]

theorem test_build_width_5 : Cfg.build 5 3800000 143 none .low = .error .width := by rfl
theorem test_build_width_2 : Cfg.build 2 3800000 143 none .low = .error .width := by rfl
theorem test_build_3_without_table : Cfg.build 3 2400000 90 none .low = .error .noTable3 := by rfl
theorem test_build_no_clock : Cfg.build 4 0 1 none .low = .error .clock := by rfl
theorem test_build_142 : Cfg.build 4 3800000 142 none .low = .error .resetCount := by rfl
theorem test_build_140_at_3733334 : Cfg.build 4 3733334 140 none .low = .error .resetCount := by rfl
theorem test_build_source : Cfg.build 4 3733333 140 none .msbOfLastByte = .ok cfgSrc := by rfl
theorem test_build_reference : Cfg.build 4 3800000 143 none .msbOfLastByte = .ok cfgRef := by rfl
theorem test_build_3_with_table : Cfg.build 3 2400000 90 (some someTable3) .low = .ok narrow.cfg := by
  simp [Cfg.build, narrow]
theorem test_min_reset :
    [2400000, 3000000, 3733333, 3733334, 3800000, 4000000, 8000000].map minReset =
      [90, 113, 140, 141, 143, 150, 300] := by decide

/-! ## One written-out word per operation (30_encoding.md) -/

theorem test_decode_sym : decode .sym [0b0000_0100#8] = .ok (.sym false) := by rfl
theorem test_decode_encn : decode .encn [0b0111_0111#8, 0b0100_0100#8] = .ok (.encn 0b1100#4) := by rfl
theorem test_decode_encb :
    decode .encb [0b0111_0100#8, 0b0100_0100#8, 0b0100_0100#8, 0b0100_0111#8] = .ok (.encb 0b1000_0001#8) := by rfl
theorem test_decode_row :
    decode .row [0b0100_0111#8, 0b0100_0100#8, 0b0111_0111#8, 0b0100_0100#8] = .ok (.row 0b0100_1100#8) := by rfl
theorem test_decode_tbuild :
    decode .tbuild [0b0100_0100#8, 0b0111_0100#8, 0b0100_0100#8, 0b0100_0100#8] = .ok .tbuild := by rfl
theorem test_decode_lookup : decode .lookup [0b0100_1100#8] = .ok (.lookup 0x4C#8) := by rfl
theorem test_decode_decode :
    decode .decode [0b0100_0111#8, 0b0100_0100#8] = .ok (.decode [0x47#8, 0x44#8]) := by rfl
/-- Colour (r, g, b) = (01, 02, 03): green first (95, group 2.6). -/
theorem test_decode_pack :
    decode .pack [0x44#8, 0x44#8, 0x44#8, 0x74#8, 0x44#8, 0x44#8, 0x44#8, 0x47#8, 0x44#8, 0x44#8, 0x44#8, 0x77#8] =
      .ok (.pack ⟨0x01#8, 0x02#8, 0x03#8⟩) := by rfl
theorem test_decode_emitc : decode .emitc frame4C = .ok .emitc := by rfl
theorem test_decode_emitr : decode .emitr [0b0000_0000#8] = .ok .emitr := by rfl
theorem test_decode_write :
    decode .write [0x00#8, 0x4C#8, 0x00#8, 0x00#8, 0x01#8, 0x00#8, 0x00#8, 0x00#8] = .ok (.write [red4C] true) := by rfl
theorem test_decode_write_unended : decode .write [0x00#8, 0x4C#8, 0x00#8, 0x00#8] = .ok (.write [red4C] false) := by rfl
theorem test_decode_token_color :
    decode .token [0x00#8, 0x12#8, 0x34#8, 0x56#8] = .ok (.tokenColor ⟨0x12#8, 0x34#8, 0x56#8⟩) := by rfl
theorem test_decode_token_end : decode .token [0x01#8, 0xAB#8, 0xCD#8, 0xEF#8] = .ok .tokenEnd := by rfl
theorem test_decode_txwrite : decode .txwrite [0x44#8, 0x47#8] = .ok (.txwrite [0x44#8, 0x47#8]) := by rfl
theorem test_decode_shift : decode .shift [0b0100_0111#8] = .ok (.shift 0x47#8) := by rfl

theorem test_reject_symbol : decode .row [0x47#8, 0x44#8, 0x77#8, 0x45#8] = .error .notASymbol := by rfl
theorem test_reject_token : decode .token [0x02#8, 0#8, 0#8, 0#8] = .error .aboveTheToken := by rfl
theorem test_reject_after_end :
    decode .write [0x01#8, 0#8, 0#8, 0#8, 0x00#8, 0#8, 0#8, 0#8] = .error .afterEnd := by rfl
theorem test_reject_length : decode .shift [] = .error .wrongLength := by rfl
theorem test_reject_reset_byte : decode .emitr [0x44#8] = .error .notZero := by rfl

/-- The table's words, one per length, as `decodeTableWord` numbers them. -/
theorem test_table_words :
    decodeTableWord 8 0x07 = some (.sym true) ∧ decodeTableWord 16 0x7744 = some (.encn 0xC#4) ∧
      decodeTableWord 32 0x47447744 = some (.encb 0x4C#8) ∧ decodeTableWord 8 0x00 = some .emitr ∧
      decodeTableWord 32 0x00123456 = some (.tokenColor ⟨0x12#8, 0x34#8, 0x56#8⟩) ∧
      decodeTableWord 32 0x01FFFFFF = some .tokenEnd ∧
      decodeTableWord 96 0x444444444744774444444444 = some (.pack red4C) := ⟨rfl, rfl, rfl, rfl, rfl, rfl, rfl⟩

/-! ## The spec's vectors, one operation each (95, Parts 1 and 2) -/

theorem test_sym : onNext (exec (.sym true) State.reset) (fun t => t.res == .symbol 0x7#4) = true := by decide
theorem test_encn : onNext (exec (.encn 0xC#4) State.reset) (fun t => t.res == .group 0x7744#16) = true := by decide
theorem test_encb :
    onNext (exec (.encb 0x4C#8) State.reset) (fun t => t.res == .word 0x47447744#32) = true := by decide
theorem test_encb_top :
    onNext (exec (.encb 0x80#8) State.reset) (fun t => t.res == .word 0x74444444#32) = true := by decide
/-- S2. -/
theorem test_row :
    onNext (exec (.row 0x4C#8) State.reset) (fun t => t.res == .row [0x47#8, 0x44#8, 0x77#8, 0x44#8]) = true := by
  decide
theorem test_row_w3 :
    onNext (exec (.row 0x4C#8) narrow) (fun t => t.res == .row [0x01#8, 0x02#8, 0x03#8]) = true := by
  simp [exec, execRow, row, narrow, someTable3, row3ToBytes, putResult, onNext]
theorem test_lookup_last :
    onNext (exec (.lookup 0xFF#8) State.reset) (fun t => t.res == .row [0x77#8, 0x77#8, 0x77#8, 0x77#8]) = true := by
  decide +kernel
/-- 95, group 2.4. -/
theorem test_memRead : memRead cfgRef 0x130 4 = some [0x47#8, 0x44#8, 0x77#8, 0x44#8] := by decide
theorem test_memRead_misaligned : memRead cfgRef 0x131 4 = none := by decide
theorem test_memRead_past_end : memRead cfgRef 0x400 4 = none := by decide
theorem test_memRead_short : memRead cfgRef 0x130 3 = none := by decide
/-- 95, group 2.5. -/
theorem test_decodeRow :
    [[0x74#8, 0x74#8, 0x74#8, 0x74#8], [0x44#8, 0x44#8, 0x44#8, 0x47#8], [0x00#8, 0x00#8, 0x00#8, 0x00#8],
      [0xC4#8, 0x44#8, 0x44#8, 0x44#8], [0x46#8, 0x44#8, 0x44#8, 0x44#8], [0x44#8, 0x44#8, 0x44#8]].map decodeRow =
      [some 0xAA#8, some 0x01#8, none, none, none, none] := by decide
/-- 95, group 2.6: (12, 34, 56). -/
theorem test_pack :
    onNext (exec (.pack ⟨0x12#8, 0x34#8, 0x56#8⟩) State.reset) (fun t =>
      t.buf == [0x44#8, 0x77#8, 0x47#8, 0x44#8, 0x44#8, 0x47#8, 0x44#8, 0x74#8, 0x47#8, 0x47#8, 0x47#8, 0x74#8] &&
        t.cin == State.reset.cin) = true := by decide
/-- 95, group 2.8. -/
theorem test_shift :
    onNext (exec (.shift 0x47#8) State.reset) (fun t =>
      t.res == .levels [.low, .high, .low, .low, .low, .high, .high, .high]) = true := by decide

/-! ## Single steps (95, Part 4) -/

theorem test_start :
    onNext (step writing) (fun t => t.phase == .fetch && t.hostOut == [.next] && t.inbox.length == 2) = true := by decide
theorem test_start_not_idle : isRefused (exec (.write [] true) (inTxc [])) .startNotIdle = true := by decide
/-- P2, step 2. -/
theorem test_color :
    onNext (step (fetching [⟨.token, encode (.tokenColor red4C)⟩] [])) (fun t =>
      t.phase == .txc && t.cin == red4C && t.buf == frame4C && t.req == some frame4C && t.trace == []) = true := by decide
theorem test_color_in_idle : isRefused (exec (.tokenColor red4C) State.reset) .notFetching = true := by decide
/-- P1, step 2. -/
theorem test_end :
    onNext (step (fetching [⟨.token, endToken⟩] [])) (fun t => t.phase == .txr && t.req == some (zeros 143)) = true := by
  decide
/-- P2, step 3. -/
theorem test_txc_ok :
    onNext (step (inTxc [.ok])) (fun t => t.phase == .fetch && t.trace == [⟨frame4C, .ok⟩] && t.k == 1 &&
      t.wire == frame4C && t.hostOut == [.next, .next]) = true := by decide
/-- P4, step 5, with five bytes sent. -/
theorem test_txc_err :
    onNext (step (inTxc [.err ⟨1⟩ 5])) (fun t => t.phase == .idle && t.trace == [⟨frame4C, .err ⟨1⟩⟩] && t.k == 0 &&
      t.wire == frame4C.take 5 && t.hostOut == [.next, .done (.err ⟨1⟩)] && t.buf == frame4C) = true := by decide
/-- P6. -/
theorem test_txr_err :
    onNext (step (inTxr [.err ⟨3⟩ 0])) (fun t => t.phase == .idle && t.trace == [⟨zeros 143, .err ⟨3⟩⟩] &&
      t.wire == [] && t.hostOut == [.next, .done (.err ⟨3⟩)]) = true := by decide
/-- P8: no answer, no move. -/
theorem test_hold : onNext (step (inTxc [])) (fun t => t == inTxc []) = true := by decide
theorem test_emitr : onNext (exec .emitr (fetching [] [])) (fun t => t.req == some (zeros 143)) = true := by decide
theorem test_emitc : onNext (exec .emitc (fetching [] [])) (fun t => t.req == some (zeros 12)) = true := by decide
theorem test_txwrite :
    onNext (exec (.txwrite frame4C) State.reset) (fun t => t.req == some frame4C && t.phase == .idle) = true := by decide
theorem test_txwrite_busy : isRefused (exec (.txwrite frame4C) (inTxc [])) .requestOutstanding = true := by decide
theorem test_undecodable :
    isRefused (step (fetching [⟨.token, [0x07#8]⟩] [])) (.undecodable .wrongLength) = true := by decide
/-- R148: a platform that holds the last bit leaves the line high after `47`. -/
theorem test_line_last_bit :
    idleAfter { State.reset with cfg := { cfgRef with idle := .lastBit } } [0x47#8] = .high := by decide
theorem test_first_step_runs_the_word :
    step (State.reset.withFetchWord 32 0x004C0000) = exec (.tokenColor red4C) { State.reset with phase := .fetch } := by
  rfl

/-! ## Witnesses: a state and operands that meet all hypotheses of a statement -/

theorem narrow_width : narrow.cfg.width = .w3 someTable3 := rfl
theorem witness_RowIsTheWordsBytesOrTable3 :
    State.reset.cfg.width = .w4 ∧ narrow.cfg.width = .w3 someTable3 := ⟨rfl, rfl⟩
theorem witness_TableByteStandsAtRowTimesWidth : 3 < cfgRef.w ∧ 2 < narrow.cfg.w := by decide
/-- For `DecodeRecoversEveryByte`, `FourByteRowsAreIdleSafe`, `FourByteRowStructure` and `FourByteRowWaveform`. -/
theorem witness_FourByteWidth : State.reset.cfg.width = .w4 ∧ cfgRef.width = .w4 := ⟨rfl, rfl⟩
theorem witness_UniformThreeBitCodeIsNotIdleSafe :
    ∃ c : Cfg, c.width = .w3 (uniformTable3 0#3 0#3) ∧ TableIdleSafe c := by
  refine ⟨⟨.w3 (uniformTable3 0#3 0#3), 1, 1, .low⟩, rfl, ?_⟩
  intro v x hx
  have hu : uniformWord 0#3 0#3 v = 0#24 := by simp [uniformWord]
  simp only [row_w3 (c := ⟨.w3 (uniformTable3 0#3 0#3), 1, 1, .low⟩) rfl, uniformTable3_getElem, hu] at hx
  fin_cases hx <;> decide
/-- For `MinResetIsTheLeastAdmissible`, on both sides. -/
theorem witness_MinReset : 0 < cfgRef.fSpiHz ∧ cfgRef.wf = true ∧ minReset cfgRef.fSpiHz = cfgRef.nReset ∧
    (⟨.w4, 3800000, 142, .low⟩ : Cfg).wf = false := by decide
/-- For the second clause of `BuildAcceptsExactlyTheConfigurations`, at both widths. -/
theorem witness_BuildAccepts : Cfg.build 4 3800000 143 none .msbOfLastByte = .ok cfgRef ∧
    Cfg.build 3 2400000 90 (some someTable3) .low = .ok narrow.cfg := ⟨rfl, test_build_3_with_table⟩
theorem witness_StepRefusesIllFormedConfiguration :
    ∃ s : State, 80000 * s.cfg.nReset < 3 * s.cfg.fSpiHz :=
  ⟨{ State.reset with cfg := { cfgRef with nReset := 142 } }, by decide⟩
/-- For the last clause of `PackWritesTheWholeBuffer`. -/
theorem witness_PackBytes : 3 < State.reset.cfg.w ∧ 0 < State.reset.cfg.w := by decide
/-- For `EmitcSendsTheBuffer` and `EmitrSendsTheResetFrame`. -/
theorem witness_Emitc : (fetching [] [.ok]).phase = .fetch ∧ (fetching [] [.ok]).req = none ∧
    (fetching [] [.ok]).buf.length = 3 * (fetching [] [.ok]).cfg.w ∧ (fetching [] [.ok]).cfg.wf = true ∧
    (fetching [] [.ok]).replies = [.ok] ∧ (fetching [] []).replies = [] := by decide
/-- For the last clause of the same two statements: the answer is `Err(e)`. -/
theorem witness_EmitcErr : (fetching [] [.err ⟨1⟩ 3]).phase = .fetch ∧ (fetching [] [.err ⟨1⟩ 3]).req = none ∧
    (fetching [] [.err ⟨1⟩ 3]).buf.length = 3 * (fetching [] [.err ⟨1⟩ 3]).cfg.w ∧
    (fetching [] [.err ⟨1⟩ 3]).cfg.wf = true ∧ (fetching [] [.err ⟨1⟩ 3]).replies = .err ⟨1⟩ 3 :: [] := by decide
/-- For `WriteStartsInIdle`, and for `WriteOutsideIdleHasNoMove` in each other phase. -/
theorem witness_Idle : State.reset.phase = .idle ∧ (inTxc []).phase ≠ .idle ∧ (inTxr []).phase ≠ .idle ∧
    (fetching [] []).phase ≠ .idle := by decide
/-- For `ColourTokenPacksAndIssues`, `EndTokenIssuesTheResetFrame` and `NoRequestOutsideFetch`. -/
theorem witness_Fetch : (fetching [] []).phase = .fetch ∧ (fetching [] []).req = none ∧ State.reset.phase ≠ .fetch := by
  decide
theorem witness_OneRequestOutstanding : (inTxc []).req = some frame4C ∧
    onNext (exec (.sym true) (inTxc [])) (fun t => t.req == some frame4C) = true := by decide
/-- For `TxcOkAsksForTheNextColour`. -/
theorem witness_TxcOk : (inTxc [.ok]).cfg.wf = true ∧ (inTxc [.ok]).phase = .txc ∧
    (inTxc [.ok]).req = some (inTxc [.ok]).buf ∧ (inTxc [.ok]).replies = .ok :: [] := by decide
/-- For `TxcErrAborts` and `TransportFailureLeavesTheRegisters`. -/
theorem witness_TxcErr : (inTxc [.err ⟨1⟩ 12]).cfg.wf = true ∧ (inTxc [.err ⟨1⟩ 12]).phase = .txc ∧
    (inTxc [.err ⟨1⟩ 12]).req = some (inTxc [.err ⟨1⟩ 12]).buf ∧
    (inTxc [.err ⟨1⟩ 12]).replies = .err ⟨1⟩ 12 :: [] := by decide
/-- For `TxrAnswerEndsTheWrite`, with either answer, and `TransportFailureLeavesTheRegisters`. -/
theorem witness_Txr : (inTxr [.ok]).cfg.wf = true ∧ (inTxr [.ok]).phase = .txr ∧
    (inTxr [.ok]).req = some (zeros (inTxr [.ok]).cfg.nReset) ∧ (inTxr [.ok]).replies = .ok :: [] ∧
    (inTxr [.err ⟨2⟩ 143]).replies = .err ⟨2⟩ 143 :: [] := by decide
/-- For `PhaseMovesOnlyAlongTheTable` and `ConfigurationNeverChanges`. -/
theorem witness_PhaseMoves : onNext (step writing) (fun t => t.phase == .fetch) = true ∧
    onNext (exec (.tokenColor red4C) (fetching [] [])) (fun t => t.phase == .txc) = true := by decide
/-- For `HoldsUntilTheAwaitedInput`, both clauses. -/
theorem witness_Holds : (inTxc []).cfg.wf = true ∧ (∃ bytes, (inTxc []).req = some bytes) ∧ (inTxc []).replies = [] ∧
    State.reset.req = none ∧ State.reset.inbox = [] := ⟨by decide, ⟨frame4C, rfl⟩, rfl, rfl, rfl⟩
/-- For `TxwriteHandsTheBuffer`. -/
theorem witness_Txwrite : State.reset.req = none := rfl
theorem witness_AnswerPutsBytesOnTheWire :
    (∃ s : State, s.cfg.wf = true ∧ s.phase = .idle ∧ s.req = some [0x44#8] ∧ s.replies = [.ok]) ∧
      ∃ s : State, s.cfg.wf = true ∧ s.req = some [0x44#8] ∧ s.replies = [.err ⟨0⟩ 0] :=
  ⟨⟨{ State.reset with req := some [0x44#8], replies := [.ok] }, by decide⟩,
   ⟨{ State.reset with req := some [0x44#8], replies := [.err ⟨0⟩ 0] }, by decide⟩⟩
/-- For `PureOperationsChangeOnlyTheResult`. -/
theorem witness_PureOperations : (Instr.shift 0x47#8).port = .shift ∧ (Instr.tbuild).port = .tbuild ∧
    onNext (exec (.shift 0x47#8) State.reset) (fun _ => true) = true ∧
    onNext (exec .tbuild State.reset) (fun _ => true) = true := by decide
/-- For `FrameWaveforms` (at `W = 4`) and `FrameDurations` (at both widths). -/
theorem witness_Frames : State.reset.cfg.width = .w4 ∧
    onNext (exec (.pack red4C) State.reset) (fun _ => true) = true ∧
    onNext (exec (.pack red4C) narrow) (fun _ => true) = true := ⟨rfl, rfl, rfl⟩
/-- For `FrameWriterOperationsFrame`, each clause. -/
theorem witness_FrameWriterOperations :
    onNext (exec (.pack red4C) State.reset) (fun _ => true) = true ∧
      onNext (exec .emitc (fetching [] [])) (fun _ => true) = true ∧
      onNext (exec .emitr (fetching [] [])) (fun _ => true) = true ∧
      onNext (exec (.tokenColor red4C) (fetching [] [])) (fun _ => true) = true ∧
      onNext (exec .tokenEnd (fetching [] [])) (fun _ => true) = true ∧
      onNext (exec (.txwrite frame4C) State.reset) (fun _ => true) = true ∧
      onNext (exec (.write [red4C] false) State.reset) (fun _ => true) = true := by decide
/-- For `StepRunsTheDecodedOperation`. -/
theorem witness_StepRuns : writing.cfg.wf = true ∧ writing.req = none ∧
    writing.inbox = ⟨.write, encode (.write [red4C] true)⟩ :: [] ∧
    decode .write (encode (.write [red4C] true)) = .ok (.write [red4C] true) := ⟨by decide, rfl, rfl, rfl⟩

/-- For `StepKeepsSequenced`, and the premise of the other invariants: `TXC` with the frame of `red4C` outstanding. -/
theorem witness_Sequenced : Sequenced (inTxc [.ok]) ∧ onNext (step (inTxc [.ok])) (fun _ => true) = true :=
  ⟨⟨by unfold HostOnly; decide, by decide, rfl⟩, by decide⟩
theorem group_guard_bits : ∀ n : BitVec 4, (group n).getLsbD 15 = false ∧ (group n).getLsbD 7 = false := by decide
theorem row_bit7_clear (v : Byte) : ∀ x ∈ wordToBytes (word v), byteBit x 7 = false := by
  simp only [wordToBytes, List.mem_cons, List.not_mem_nil, or_false]
  rintro x (rfl | rfl | rfl | rfl) <;> rw [byteBit, BitVec.getLsbD_extractLsb', word_getLsbD] <;> simp only [Nat.reduceAdd, Nat.reduceSub, Nat.reduceLT, decide_true, Bool.true_and, if_true, if_false, group_guard_bits]
theorem cfgRef_idleSafe : TableIdleSafe cfgRef := by
  intro v x hx
  rw [row_w4 rfl] at hx
  exact row_bit7_clear v x hx
theorem witness_StepKeepsIdleSafety : TableIdleSafe (inTxc [.ok]).cfg ∧ keepsLow (inTxc [.ok]).cfg.idle ∧
    IdleSafe (inTxc [.ok]) :=
  ⟨cfgRef_idleSafe, .inl rfl, ⟨by unfold TopClear; decide, by simp [inTxc, State.reset, State.resetOf], by unfold TopClear; decide, rfl⟩⟩
theorem witness_StepKeepsTranscript : Transcript (inTxc [.ok]) := ⟨by simp [inTxc, State.reset, State.resetOf], rfl, rfl⟩
theorem witness_StepKeepsWireInOrder : WireFollowsTrace (inTxc [.ok]) := ⟨[], .nil, rfl⟩

theorem witness_WriteAgreesWithItsSpecification : writing.cfg.wf = true ∧ writing.phase = .idle ∧ writing.req = none ∧
    writing.inbox = ⟨.write, encode (.write [red4C] true)⟩ :: [] ∧ [red4C].length < writing.replies.length := by decide
/-- For `SuccessfulWriteSendsEveryFrame` and `SuccessfulWriteFillsTheWire`. -/
theorem witness_SuccessfulWrite : writing.cfg.wf = true ∧ writing.phase = .idle ∧ writing.req = none ∧
    writing.inbox = ⟨.write, encode (.write [red4C] true)⟩ :: [] ∧ [red4C].length < writing.replies.length ∧
    ∀ i, i ≤ [red4C].length → answerAt writing.replies i = .ok := by decide

/-- `writing`, with other answers. -/
def failing (replies : List Reply) : State := { writing with replies := replies }

/-- For `FirstFailureEndsTheWrite` and `FailedWriteLeavesAPrefixOnTheWire`: the reset frame fails, `j = N`. -/
theorem witness_FailedResetFrame : (failing [.ok, .err ⟨2⟩ 7]).cfg.wf = true ∧
    (failing [.ok, .err ⟨2⟩ 7]).phase = .idle ∧ (failing [.ok, .err ⟨2⟩ 7]).req = none ∧
    (failing [.ok, .err ⟨2⟩ 7]).inbox = ⟨.write, encode (.write [red4C] true)⟩ :: [] ∧ 1 ≤ [red4C].length ∧
    (∀ i, i < 1 → (failing [.ok, .err ⟨2⟩ 7]).replies[i]? = some .ok) ∧
    (failing [.ok, .err ⟨2⟩ 7]).replies[1]? = some (.err ⟨2⟩ 7) ∧ [red4C][1]? = none := by decide
/-- The same two statements: the first colour frame fails, `j = 0`. -/
theorem witness_FailedColourFrame : (failing [.err ⟨1⟩ 0]).cfg.wf = true ∧ (failing [.err ⟨1⟩ 0]).phase = .idle ∧
    (failing [.err ⟨1⟩ 0]).req = none ∧
    (failing [.err ⟨1⟩ 0]).inbox = ⟨.write, encode (.write [red4C] true)⟩ :: [] ∧ 0 ≤ [red4C].length ∧
    (∀ i, i < 0 → (failing [.err ⟨1⟩ 0]).replies[i]? = some .ok) ∧
    (failing [.err ⟨1⟩ 0]).replies[0]? = some (.err ⟨1⟩ 0) ∧ [red4C][0]? = some red4C := by decide
/-- For `ZeroLengthWriteIsOneResetFrame`. -/
theorem witness_ZeroLengthWrite : ∃ s : State, s.cfg.wf = true ∧ s.phase = .idle ∧ s.req = none ∧
    s.inbox = ⟨.write, encode (.write [] true)⟩ :: [] ∧ s.replies = .ok :: [] :=
  ⟨{ State.reset with inbox := [⟨.write, encode (.write [] true)⟩], replies := [.ok] }, by decide⟩
theorem witness_WriteForgetsTheHistory : HostOnly writing ∧ ∃ t : State, t ≠ writing ∧ writing.cfg = t.cfg ∧
    t.phase = .idle ∧ t.req = none ∧ t.inbox = writing.inbox ∧ writing.inbox.head?.map Msg.port = some .write ∧
    writing.replies = t.replies ∧ t.buf ≠ writing.buf :=
  ⟨by unfold HostOnly; decide, { writing with buf := frame4C, trace := [⟨frame4C, .err ⟨9⟩⟩] }, by decide⟩

/-- A `WRITE` whose sequence the host has not ended waits at the head of the inbox. -/
def writingOn : State := { State.reset with inbox := [⟨.write, encode (.write [] false)⟩] }

/-- For `EndlessSequenceSendsEveryFrame`, and with `witness_OnlyColours` for `EndlessSequenceNeverEnds`. -/
theorem witness_Endless : writingOn.cfg.wf = true ∧ writingOn.phase = .idle ∧ writingOn.req = none ∧
    writingOn.inbox = [⟨.write, encode (.write [] false)⟩] ∧ writingOn.replies = [] ∧
    ∀ a ∈ writingOn.replies, a = .ok := by decide
theorem witness_OnlyColours : OnlyColours (endless fun _ => red4C) := by
  constructor <;> rintro (_ | n) m hm
  · simp [endless] at hm
  · by_cases h : n % 2 = 0 <;> simp [endless, h] at hm
    exact ⟨red4C, hm⟩
  · simp [endless] at hm
  · by_cases h : n % 2 = 0 <;> simp [endless, h] at hm
    exact hm
/-- R9: a transport whose error type is another one. -/
theorem test_other_error_type :
    (match stepOf { State.resetOf Bool with phase := .txr, req := some (zeros 143), replies := [.err true 0] } with
      | .next t => t.hostOut
      | .fault _ => []
      | .refused _ => []) = [.done (.err true)] := by decide

/-- R80, with the row of 95, group 2.4: a ROM and a RAM that held nothing before. -/
theorem test_lookup_forms : [TableForm.onDemand, .rom, .ram (Vector.replicate 256 [])].map
    (fun form => lookupBy form cfgRef 0x4C#8) = List.replicate 3 [0x47#8, 0x44#8, 0x77#8, 0x44#8] := by decide +kernel
/-- Assumption 32: a `START` that came during `TXC` waits there, and has no move in `FETCH`. -/
theorem test_early_start :
    onNext (stepIn ⟨[⟨.write, encode (.write [] true)⟩], [.ok]⟩ (inTxc [])) (fun t =>
      t.phase == .fetch && t.inbox.length == 1 && isRefused (step t) .startNotIdle) = true := by decide

end Sys2Proof.Tests
end

section
/-! The scope of the block (00_scope.md): which parameters make a configuration, what an ill-formed one does, and that the
transport's error values are carried and never read. -/

namespace Sys2Proof

/-! ### Well-formed configurations (R7, R8, R79) -/

theorem Cfg.wf_iff (c : Cfg) :
    c.wf = true ↔ 0 < c.fSpiHz ∧ 0 < c.nReset ∧ 3 * c.fSpiHz ≤ 80000 * c.nReset := by
  simp [Cfg.wf, and_assoc]

/-- The rounded-up quotient of R79 is the least count that meets the inequality of R8. -/
theorem minReset_le_iff (f n : Nat) : minReset f ≤ n ↔ 3 * f ≤ 80000 * n := by
  unfold minReset
  omega

/-! ### What `Cfg.build` answers (R5, R6, R8) -/

/-- The checks `Cfg.build` makes once the width is known; the `build_…` equations below tie it to `Cfg.build`. -/
def Cfg.checked (width : Width) (f n : Nat) (r : IdleRule) : Except CfgError Cfg :=
  if f = 0 then .error .clock
  else if n = 0 ∨ 80000 * n < 3 * f then .error .resetCount
  else .ok ⟨width, f, n, r⟩

theorem Cfg.build_four (f n : Nat) (t : Option Table3) (r : IdleRule) :
    Cfg.build 4 f n t r = Cfg.checked .w4 f n r := rfl

theorem Cfg.build_three_some (f n : Nat) (t3 : Table3) (r : IdleRule) :
    Cfg.build 3 f n (some t3) r = Cfg.checked (.w3 t3) f n r := rfl

theorem Cfg.build_three_none (f n : Nat) (r : IdleRule) : Cfg.build 3 f n none r = .error .noTable3 := rfl

theorem Cfg.build_of_other_width {w : Nat} (h4 : w ≠ 4) (h3 : w ≠ 3) (f n : Nat) (t : Option Table3) (r : IdleRule) :
    Cfg.build w f n t r = .error .width := by
  simp [Cfg.build, h4, h3]

theorem Cfg.checked_eq_ok {width : Width} {f n : Nat} {r : IdleRule} {c : Cfg} :
    Cfg.checked width f n r = .ok c ↔ c = ⟨width, f, n, r⟩ ∧ c.wf = true := by
  have hwf : (⟨width, f, n, r⟩ : Cfg).wf = true ↔ f ≠ 0 ∧ ¬(n = 0 ∨ 80000 * n < 3 * f) := by
    rw [Cfg.wf_iff]
    dsimp only
    omega
  unfold Cfg.checked
  split_ifs with hf hn
  · constructor
    · rintro ⟨⟩
    · rintro ⟨rfl, h⟩
      exact absurd hf (hwf.1 h).1
  · constructor
    · rintro ⟨⟩
    · rintro ⟨rfl, h⟩
      exact absurd hn (hwf.1 h).2
  · constructor
    · rintro ⟨⟩
      exact ⟨rfl, hwf.2 ⟨hf, hn⟩⟩
    · rintro ⟨rfl, -⟩
      rfl

/-- The widths that raw parameters name: 4, or 3 with a `TABLE3` (R5, R6). -/
inductive NamesWidth : Nat → Option Table3 → Width → Prop where
  | four (t : Option Table3) : NamesWidth 4 t .w4
  | three (t3 : Table3) : NamesWidth 3 (some t3) (.w3 t3)

theorem exists_namesWidth {w : Nat} {t : Option Table3} :
    (∃ width, NamesWidth w t width) ↔ w = 4 ∨ (w = 3 ∧ t.isSome = true) := by
  constructor
  · rintro ⟨_, _ | _⟩
    · exact .inl rfl
    · exact .inr ⟨rfl, rfl⟩
  · rintro (rfl | ⟨rfl, ht⟩)
    · exact ⟨_, .four t⟩
    · obtain ⟨t3, rfl⟩ := Option.isSome_iff_exists.1 ht
      exact ⟨_, .three t3⟩

theorem NamesWidth.bytes_eq {w : Nat} {t : Option Table3} {width : Width} (h : NamesWidth w t width) :
    width.bytes = w := by
  cases h <;> rfl

theorem NamesWidth.table3_eq {w : Nat} {t : Option Table3} {t3 : Table3} (h : NamesWidth w t (.w3 t3)) :
    t = some t3 := by
  cases h
  rfl

/-- Everything a build that succeeds can be. -/
theorem Cfg.build_eq_ok {w f n : Nat} {t : Option Table3} {r : IdleRule} {c : Cfg} :
    Cfg.build w f n t r = .ok c ↔ ∃ width, NamesWidth w t width ∧ c = ⟨width, f, n, r⟩ ∧ c.wf = true := by
  constructor
  · intro h
    by_cases h4 : w = 4
    · subst h4
      exact ⟨_, .four t, Cfg.checked_eq_ok.1 h⟩
    · by_cases h3 : w = 3
      · subst h3
        cases t with
        | none => cases h
        | some t3 => exact ⟨_, .three t3, Cfg.checked_eq_ok.1 h⟩
      · rw [Cfg.build_of_other_width h4 h3] at h
        cases h
  · rintro ⟨_, _ | t3, hc⟩
    · rw [Cfg.build_four, Cfg.checked_eq_ok]
      exact hc
    · rw [Cfg.build_three_some, Cfg.checked_eq_ok]
      exact hc

end Sys2Proof

namespace Sys2Proof.Machine

/-! ### Carrying the error values over (R9, R112): the fields of the state -/

section Fields

variable {E F : Type} (f : E → F) (s : State E)

@[simp] theorem State.mapErr_cfg : (s.mapErr f).cfg = s.cfg := rfl
@[simp] theorem State.mapErr_phase : (s.mapErr f).phase = s.phase := rfl
@[simp] theorem State.mapErr_req : (s.mapErr f).req = s.req := rfl
@[simp] theorem State.mapErr_inbox : (s.mapErr f).inbox = s.inbox := rfl
@[simp] theorem State.mapErr_replies : (s.mapErr f).replies = s.replies.map (Reply.mapErr f) := rfl

theorem Reply.answer_mapErr (a : Reply E) : (a.mapErr f).answer = a.answer.mapErr f := by
  cases a <;> rfl

theorem Reply.transmitted_mapErr (bytes : List Byte) (a : Reply E) :
    (a.mapErr f).transmitted bytes = a.transmitted bytes := by
  cases a <;> rfl

end Fields

/-! ### The shared operations commute with it -/

section Operations

variable {E F : Type} (f : E → F)

theorem enterFetch_mapErr (s : State E) : enterFetch (s.mapErr f) = (enterFetch s).mapErr f := by
  simp [enterFetch, State.mapErr, HostEvent.mapErr]

theorem deliverDone_mapErr (a : Answer E) (s : State E) :
    deliverDone (a.mapErr f) (s.mapErr f) = (deliverDone a s).mapErr f := by
  simp [deliverDone, State.mapErr, HostEvent.mapErr]

theorem start_mapErr (s : State E) : start (s.mapErr f) = (start s).mapErr f := rfl

/-- The line's level is read off the bytes sent, never off the error. -/
theorem idleAfter_mapErr (s : State E) (sent : List Byte) : idleAfter (s.mapErr f) sent = idleAfter s sent := rfl

theorem settle_mapErr (bytes : List Byte) (a : Reply E) (s : State E) :
    settle bytes (a.mapErr f) (s.mapErr f) = (settle bytes a s).mapErr f := by
  simp only [settle, Reply.answer_mapErr, Reply.transmitted_mapErr, idleAfter_mapErr]
  simp [State.mapErr, TxEntry.mapErr, OpResult.mapErr]

/-- The sequencer tells `Ok` from `Err(e)`, and not one `e` from another. -/
theorem advance_mapErr (a : Answer E) (s : State E) :
    advance (a.mapErr f) (s.mapErr f) = (advance a s).mapErr f := by
  cases hp : s.phase with
  | idle =>
    rw [advance_bare (.inl hp)]
    exact advance_bare (s := s.mapErr f) (.inl hp)
  | fetch =>
    rw [advance_bare (.inr hp)]
    exact advance_bare (s := s.mapErr f) (.inr hp)
  | txc =>
    cases a with
    | ok =>
      rw [advance_txc_ok hp, ← enterFetch_mapErr]
      exact advance_txc_ok (s := s.mapErr f) hp
    | err e =>
      rw [advance_err (.inl hp), raiseTransportFailure, ← deliverDone_mapErr]
      exact advance_err (s := s.mapErr f) (.inl hp)
  | txr =>
    cases a with
    | ok =>
      rw [advance_txr_ok hp, ← deliverDone_mapErr]
      exact advance_txr_ok (s := s.mapErr f) hp
    | err e =>
      rw [advance_err (.inr hp), raiseTransportFailure, ← deliverDone_mapErr]
      exact advance_err (s := s.mapErr f) (.inr hp)

theorem awaitAnswer_mapErr (bytes : List Byte) (s : State E) :
    awaitAnswer bytes (s.mapErr f) = (awaitAnswer bytes s).mapErr f := by
  cases h : s.replies with
  | nil => rw [awaitAnswer_nil h, awaitAnswer_nil (by simp [h])]
  | cons a rest =>
    have hf : (s.mapErr f).replies = a.mapErr f :: rest.map (Reply.mapErr f) := by simp [h]
    rw [awaitAnswer_cons h, awaitAnswer_cons hf, Reply.answer_mapErr, ← advance_mapErr, ← settle_mapErr]
    rfl

theorem issue_mapErr (bytes : List Byte) (p : Phase) (s : State E) :
    issue bytes p (s.mapErr f) = mapErrOutcome f (issue bytes p s) := by
  cases h : s.req with
  | none =>
    rw [issue_of_none h, issue_of_none (s := s.mapErr f) h]
    rfl
  | some r =>
    rw [issue_of_some h, issue_of_some (s := s.mapErr f) h]
    rfl

theorem issueInFetch_mapErr (bytes : List Byte) (p : Phase) (s : State E) :
    issueInFetch bytes p (s.mapErr f) = mapErrOutcome f (issueInFetch bytes p s) := by
  by_cases h : s.phase = .fetch
  · simp only [issueInFetch, State.mapErr_phase, h, issue_mapErr]
  · rw [issueInFetch_of_ne_fetch h, issueInFetch_of_ne_fetch (s := s.mapErr f) h]
    rfl

theorem execWrite_mapErr (colors : List Color) (ended : Bool) (s : State E) :
    execWrite colors ended (s.mapErr f) = mapErrOutcome f (execWrite colors ended s) := by
  simp only [execWrite, State.mapErr_phase]
  cases s.phase <;> rfl

/-- Every operation commutes with `f`. The first group reads the configuration at most and writes `res` or `BUF`, which
then hold no error value; the others go through the shared operations. -/
theorem execOf_mapErr (i : Instr) (s : State E) : execOf i (s.mapErr f) = mapErrOutcome f (execOf i s) := by
  cases i with
  | sym _ | encn _ | encb _ | row _ | tbuild | lookup _ | decode _ | pack _ | shift _ => rfl
  | emitc => exact issueInFetch_mapErr f s.buf .txc s
  | emitr => exact issueInFetch_mapErr f (zeros s.cfg.nReset) .txr s
  | write colors ended => exact execWrite_mapErr f colors ended s
  | tokenColor c => exact issueInFetch_mapErr f (frame s.cfg c) .txc (packBuf c { s with cin := c })
  | tokenEnd => exact issueInFetch_mapErr f (zeros s.cfg.nReset) .txr s
  | txwrite bytes => exact issue_mapErr f bytes s.phase s

/-- A step commutes with `f` whenever the operations it runs do. -/
theorem stepWith_mapErr {runE : Instr → State E → Host.Outcome (State E) Fault Refusal}
    {runF : Instr → State F → Host.Outcome (State F) Fault Refusal}
    (hrun : ∀ i s, runF i (s.mapErr f) = mapErrOutcome f (runE i s)) (s : State E) :
    stepWith runF (s.mapErr f) = mapErrOutcome f (stepWith runE s) := by
  simp only [stepWith, State.mapErr_cfg, State.mapErr_req, State.mapErr_inbox]
  by_cases hwf : s.cfg.wf = true
  · simp only [hwf, if_true]
    cases s.req with
    | some bytes => exact congrArg Host.Outcome.next (awaitAnswer_mapErr f bytes s)
    | none =>
      cases s.inbox with
      | nil => rfl
      | cons m rest =>
        dsimp only
        cases fetch m with
        | error why => rfl
        | ok i =>
          dsimp only
          rw [← hrun]
          rfl
  · simp only [hwf]
    rfl

end Operations

/-- The step behind the host's interface is the parametric step at `TransportError` (assumption 2). -/
theorem step_eq_stepOf (s : State) : step s = stepOf s := by
  have hrun : (execOf : Instr → State → _) = exec := funext fun i => funext (execOf_eq_exec i)
  rw [step, stepOf, hrun]

/-! ### The obligations -/

/-- Settles O58: each operation commutes with carrying the error values over, and so does the step that runs them. -/
theorem errorValuesAreOpaque : Obligations.ErrorValuesAreOpaque :=
  ⟨fun _ _ f s => stepWith_mapErr f (execOf_mapErr f) s, step_eq_stepOf⟩

/-- Settles O17, by `Cfg.build_eq_ok`: a build is a named width and a well-formed configuration with the parameters
given. -/
theorem buildAcceptsExactlyTheConfigurations : Obligations.BuildAcceptsExactlyTheConfigurations := by
  intro w f n t r
  constructor
  · rw [← exists_namesWidth]
    constructor
    · rintro ⟨c, hc⟩
      obtain ⟨width, hw, rfl, hwf⟩ := Cfg.build_eq_ok.1 hc
      exact ⟨⟨width, hw⟩, (Cfg.wf_iff _).1 hwf⟩
    · rintro ⟨⟨width, hw⟩, hwf⟩
      exact ⟨⟨width, f, n, r⟩, Cfg.build_eq_ok.2 ⟨width, hw, rfl, (Cfg.wf_iff _).2 hwf⟩⟩
  · intro c hc
    obtain ⟨width, hw, rfl, hwf⟩ := Cfg.build_eq_ok.1 hc
    refine ⟨hwf, hw.bytes_eq, rfl, rfl, rfl, ?_⟩
    rintro t3 rfl
    exact hw.table3_eq

/-- Settles O16: with a positive clock the inequality of R8 already makes the count positive. -/
theorem minResetIsTheLeastAdmissible : Obligations.MinResetIsTheLeastAdmissible := by
  intro c hclock
  rw [Cfg.wf_iff, minReset_le_iff]
  omega

/-- Settles O18: such a configuration is not well-formed, and `step` asks that first. -/
theorem stepRefusesIllFormedConfiguration : Obligations.StepRefusesIllFormedConfiguration := by
  intro s hlow
  have hwf : s.cfg.wf = false := by
    rw [Bool.eq_false_iff, ne_eq, Cfg.wf_iff]
    omega
  exact step_refuses hwf

end Sys2Proof.Machine
end

section
/-! The state of the block (10_state.md): reset, what no step changes, and that a `WRITE` forgets the history before it. -/

namespace Sys2Proof.Machine

/-! ### What an answer can do to the sequencer (R93 to R95) -/

theorem advance_done {E : Type} {a : Answer E} {s : State E}
    (h : s.phase = .txr ∨ s.phase = .txc ∧ a ≠ .ok) : advance a s = deliverDone a s := by
  cases a with
  | ok =>
    obtain hp | ⟨-, hne⟩ := h
    · exact advance_txr_ok hp
    · exact absurd rfl hne
  | err e => exact advance_err (h.symm.imp_left And.left)

/-- An answer moves nothing, brings the next `FETCH`, or ends the `WRITE`. -/
theorem advance_cases {E : Type} (a : Answer E) (s : State E) :
    ((s.phase = .idle ∨ s.phase = .fetch) ∧ advance a s = s) ∨
    (s.phase = .txc ∧ a = .ok ∧ advance a s = enterFetch { s with k := s.k + 1 }) ∨
    ((s.phase = .txr ∨ s.phase = .txc ∧ a ≠ .ok) ∧ advance a s = deliverDone a s) := by
  cases hp : s.phase with
  | idle => exact .inl ⟨.inl rfl, advance_bare (.inl hp)⟩
  | fetch => exact .inl ⟨.inr rfl, advance_bare (.inr hp)⟩
  | txc =>
    by_cases ha : a = .ok
    · subst ha
      exact .inr (.inl ⟨rfl, rfl, advance_txc_ok hp⟩)
    · exact .inr (.inr ⟨.inr ⟨rfl, ha⟩, advance_done (.inr ⟨hp, ha⟩)⟩)
  | txr => exact .inr (.inr ⟨.inl rfl, advance_done (.inl hp)⟩)

/-! ### The configuration is kept (R21, R59) -/

theorem advance_cfg {E : Type} (a : Answer E) (s : State E) : (advance a s).cfg = s.cfg := by
  obtain ⟨-, h⟩ | ⟨-, -, h⟩ | ⟨-, h⟩ := advance_cases a s <;> rw [h]
  · rw [enterFetch_cfg]
  · rw [deliverDone_cfg]

/-- The first group always answers, writing `res` or `BUF` only; of the others `…_eq_next` says all they can answer. -/
theorem exec_cfg {i : Instr} {s t : State} (h : exec i s = .next t) : t.cfg = s.cfg := by
  cases i with
  | sym _ | encn _ | encb _ | row _ | tbuild | lookup _ | decode _ | pack _ | shift _ =>
    cases h
    rfl
  | emitc =>
    obtain ⟨-, -, rfl⟩ := execEmitc_eq_next.1 h
    rfl
  | emitr =>
    obtain ⟨-, -, rfl⟩ := execEmitr_eq_next.1 h
    rfl
  | write colors ended =>
    obtain ⟨-, rfl⟩ := execWrite_eq_next.1 h
    rfl
  | tokenColor c =>
    obtain ⟨-, -, rfl⟩ := execTokenColor_eq_next.1 h
    rfl
  | tokenEnd =>
    obtain ⟨-, -, rfl⟩ := execTokenEnd_eq_next.1 h
    rfl
  | txwrite bytes =>
    obtain ⟨-, rfl⟩ := execTxwrite_eq_next.1 h
    rfl

theorem step_cfg {s t : State} (h : step s = .next t) : t.cfg = s.cfg := by
  obtain ⟨bytes, a, rest, -, -, rfl⟩ | rfl | ⟨m, rest, i, -, -, -, he⟩ := step_next_cases h
  · rw [advance_cfg, settle_cfg]
  · rfl
  · rw [exec_cfg he]

/-! ### Runs -/

theorem runFor_of_step_self {s : State} (h : step s = .next s) : ∀ n, runFor n s = .next s
  | 0 => rfl
  | n + 1 => by simp only [runFor, h, runFor_of_step_self h n]

/-! ### Host events (R18, R83, R87) -/

/-- The `WRITE` port carries no other operation (R60, R83). -/
theorem fetch_write {m : Msg} {i : Instr} (hp : m.port = .write) (hm : fetch m = .ok i) :
    ∃ colors ended, i = .write colors ended := by
  simp only [fetch, hp, decode] at hm
  cases hq : unsequence m.bytes with
  | error why =>
    rw [hq] at hm
    cases hm
  | ok q =>
    rw [hq] at hm
    cases hm
    exact ⟨_, _, rfl⟩

theorem untoken_eq_ok {x r g b : Byte} {i : Instr} (h : untoken x r g b = .ok i) :
    (∃ c, i = .tokenColor c) ∨ i = .tokenEnd := by
  unfold untoken at h
  split_ifs at h <;> cases h
  · exact .inl ⟨_, rfl⟩
  · exact .inr rfl

/-- The token port takes four bytes (R55). -/
theorem decode_token {i : Instr} : ∀ {bytes : List Byte}, decode .token bytes = .ok i →
    ∃ x r g b, untoken x r g b = .ok i
  | [x, r, g, b], h => ⟨x, r, g, b, h⟩
  | [], h | [_], h | [_, _], h | [_, _, _], h | _ :: _ :: _ :: _ :: _ :: _, h => nomatch h

/-- The token port carries the two host tokens only (R55, R91, R92). -/
theorem fetch_token {m : Msg} {i : Instr} (hp : m.port = .token) (hm : fetch m = .ok i) :
    (∃ c, i = .tokenColor c) ∨ i = .tokenEnd := by
  rw [fetch, hp] at hm
  obtain ⟨x, r, g, b, hu⟩ := decode_token hm
  exact untoken_eq_ok hu

theorem mem_hostTokens_port {colors : List Color} {ended : Bool} {m : Msg} (h : m ∈ hostTokens colors ended) :
    m.port = .token := by
  obtain hm | hm := List.mem_append.1 h
  · obtain ⟨c, -, rfl⟩ := List.mem_map.1 hm
    rfl
  · cases ended with
    | false => simp at hm
    | true =>
      obtain rfl := List.mem_singleton.1 hm
      rfl

theorem advance_inbox_sublist {E : Type} (a : Answer E) (s : State E) : (advance a s).inbox.Sublist s.inbox := by
  obtain ⟨-, h⟩ | ⟨-, -, h⟩ | ⟨-, h⟩ := advance_cases a s <;> rw [h]
  · rw [enterFetch_inbox]
  · exact (List.dropWhile_suffix _).sublist

/-- A step takes host events from the inbox, and only a `WRITE` puts more there, all tokens. -/
theorem step_keeps_hostOnly {s t : State} (hs : HostOnly s) (h : step s = .next t) : HostOnly t := by
  obtain ⟨bytes, a, rest, -, -, rfl⟩ | rfl | ⟨m, rest, i, -, hi, hm, he⟩ := step_next_cases h
  · intro q hq
    have hsub := (advance_inbox_sublist a.answer (settle bytes a { s with replies := rest })).subset hq
    exact hs q hsub
  · exact hs
  · have hrest : ∀ q ∈ rest, q.port = .write ∨ q.port = .token := fun q hq => hs q (by simp [hi, hq])
    obtain hp | hp := hs m (by simp [hi])
    · obtain ⟨colors, ended, rfl⟩ := fetch_write hp hm
      obtain ⟨-, rfl⟩ := execWrite_eq_next.1 he
      intro q hq
      obtain hq | hq := List.mem_append.1 hq
      · exact .inr (mem_hostTokens_port hq)
      · exact hrest q hq
    · obtain ⟨c, rfl⟩ | rfl := fetch_token hp hm
      · obtain ⟨-, -, rfl⟩ := execTokenColor_eq_next.1 he
        exact hrest
      · obtain ⟨-, -, rfl⟩ := execTokenEnd_eq_next.1 he
        exact hrest

theorem execWrite_of_ne_idle {E : Type} {colors : List Color} {ended : Bool} {s : State E} (h : s.phase ≠ .idle) :
    execWrite colors ended s = .refused .startNotIdle := by
  unfold execWrite
  split <;> simp_all

/-! ### Alike states stay alike (R26, R30)

No operation that host events start reads `CIN`, `BUF`, the line, the last result or the draws before writing them. -/

section Alike

variable {s t : State}

theorem enterFetch_alike (h : Alike s t) : Alike (enterFetch s) (enterFetch t) :=
  { h with phase := rfl, hostOut := by simp [h.hostOut] }

theorem deliverDone_alike (a : Answer) (h : Alike s t) : Alike (deliverDone a s) (deliverDone a t) :=
  { h with
    phase := rfl
    hostOut := by simp [h.hostOut]
    inbox := by simp [h.inbox] }

theorem settle_alike (bytes : List Byte) (a : Reply) (h : Alike s t) : Alike (settle bytes a s) (settle bytes a t) :=
  { h with
    trace := by simp [h.trace]
    wire := by simp [h.wire]
    req := rfl }

theorem advance_alike (a : Answer) (h : Alike s t) : Alike (advance a s) (advance a t) := by
  obtain ⟨hp, hs⟩ | ⟨hp, rfl, hs⟩ | ⟨hp, hs⟩ := advance_cases a s <;> rw [hs] <;> rw [h.phase] at hp
  · rwa [advance_bare hp]
  · rw [advance_txc_ok hp]
    exact enterFetch_alike { h with k := congrArg (· + 1) h.k }
  · rw [advance_done hp]
    exact deliverDone_alike a h

theorem awaitAnswer_alike (bytes : List Byte) (h : Alike s t) : Alike (awaitAnswer bytes s) (awaitAnswer bytes t) := by
  have hrt : t.replies = s.replies := h.replies.symm
  cases hr : s.replies with
  | nil => rwa [awaitAnswer_nil hr, awaitAnswer_nil (hrt.trans hr)]
  | cons a rest =>
    rw [awaitAnswer_cons hr, awaitAnswer_cons (hrt.trans hr)]
    exact advance_alike a.answer (settle_alike bytes a { h with replies := rfl })

theorem issueInFetch_alike (bytes : List Byte) (p : Phase) (h : Alike s t) :
    AlikeOutcome (issueInFetch bytes p s) (issueInFetch bytes p t) := by
  by_cases hp : s.phase = .fetch
  · have hpt : t.phase = .fetch := h.phase.symm.trans hp
    simp only [issueInFetch, hp, hpt]
    cases hr : s.req with
    | none =>
      rw [issue_of_none hr, issue_of_none (h.req.symm.trans hr)]
      exact { h with req := rfl, phase := rfl }
    | some r =>
      rw [issue_of_some hr, issue_of_some (h.req.symm.trans hr)]
      rfl
  · rw [issueInFetch_of_ne_fetch hp, issueInFetch_of_ne_fetch (h.phase ▸ hp)]
    rfl

/-- `START` clears the ghosts and the events, so the two states need not agree on them. -/
theorem execWrite_alike_of_idle (colors : List Color) (ended : Bool) (hs : s.phase = .idle) (ht : t.phase = .idle)
    (hc : s.cfg = t.cfg) (hr : s.req = t.req) (hi : s.inbox = t.inbox) (ha : s.replies = t.replies) :
    AlikeOutcome (execWrite colors ended s) (execWrite colors ended t) := by
  rw [execWrite_eq_next.2 ⟨hs, rfl⟩, execWrite_eq_next.2 ⟨ht, rfl⟩, hi]
  exact { cfg := hc, phase := rfl, trace := rfl, wire := rfl, k := rfl, hostOut := rfl, req := hr, inbox := rfl,
          replies := ha }

theorem execWrite_alike (colors : List Color) (ended : Bool) (h : Alike s t) :
    AlikeOutcome (execWrite colors ended s) (execWrite colors ended t) := by
  by_cases hp : s.phase = .idle
  · exact execWrite_alike_of_idle colors ended hp (h.phase.symm.trans hp) h.cfg h.req h.inbox h.replies
  · rw [execWrite_of_ne_idle hp, execWrite_of_ne_idle (h.phase ▸ hp)]
    rfl

/-- A colour token writes `CIN` and all of `BUF` before it hands `BUF` over (R84, R91). -/
theorem execTokenColor_alike (c : Color) (h : Alike s t) : AlikeOutcome (execTokenColor c s) (execTokenColor c t) := by
  have hframe : frame t.cfg c = frame s.cfg c := by rw [h.cfg]
  simp only [execTokenColor, packBuf_buf, hframe]
  exact issueInFetch_alike _ _ { h with }

theorem execTokenEnd_alike (h : Alike s t) : AlikeOutcome (execTokenEnd s) (execTokenEnd t) := by
  simp only [execTokenEnd, h.cfg]
  exact issueInFetch_alike _ _ h

theorem exec_alike_of_host {m : Msg} {i : Instr} (hp : m.port = .write ∨ m.port = .token) (hm : fetch m = .ok i)
    (h : Alike s t) : AlikeOutcome (exec i s) (exec i t) := by
  obtain hp | hp := hp
  · obtain ⟨colors, ended, rfl⟩ := fetch_write hp hm
    exact execWrite_alike colors ended h
  · obtain ⟨c, rfl⟩ | rfl := fetch_token hp hm
    · exact execTokenColor_alike c h
    · exact execTokenEnd_alike h

/-- Two steps that take the same message look alike when the operation it asks for does. -/
theorem step_alike_of_take {m : Msg} {rest : List Msg} (hc : s.cfg = t.cfg) (hs : s.req = none) (ht : t.req = none)
    (his : s.inbox = m :: rest) (hit : t.inbox = m :: rest)
    (h : ∀ i, fetch m = .ok i → AlikeOutcome (exec i { s with inbox := rest }) (exec i { t with inbox := rest })) :
    AlikeOutcome (step s) (step t) := by
  cases hwf : s.cfg.wf with
  | false =>
    rw [step_refuses hwf, step_refuses (hc ▸ hwf)]
    rfl
  | true =>
    cases hm : fetch m with
    | error why =>
      rw [step_reject hwf hs his hm, step_reject (hc ▸ hwf) ht hit hm]
      rfl
    | ok i =>
      rw [step_take hwf hs his hm, step_take (hc ▸ hwf) ht hit hm]
      exact h i hm

theorem step_alike (hs : HostOnly s) (h : Alike s t) : AlikeOutcome (step s) (step t) := by
  cases hwf : s.cfg.wf with
  | false =>
    rw [step_refuses hwf, step_refuses (h.cfg ▸ hwf)]
    rfl
  | true =>
    cases hr : s.req with
    | some bytes =>
      rw [step_outstanding hwf hr, step_outstanding (h.cfg ▸ hwf) (h.req.symm.trans hr)]
      exact awaitAnswer_alike bytes h
    | none =>
      have hrt : t.req = none := h.req.symm.trans hr
      cases hi : s.inbox with
      | nil =>
        rw [step_hold hwf hr hi, step_hold (h.cfg ▸ hwf) hrt (h.inbox.symm.trans hi)]
        exact h
      | cons m rest =>
        exact step_alike_of_take h.cfg hr hrt hi (h.inbox.symm.trans hi) fun i hm =>
          exec_alike_of_host (hs m (by simp [hi])) hm { h with inbox := rfl }

/-- A run looks alike when its first step does and the runs after that step do. -/
theorem runFor_succ_alike {n : Nat} (h : AlikeOutcome (step s) (step t))
    (hrun : ∀ u v, step s = .next u → Alike u v → AlikeOutcome (runFor n u) (runFor n v)) :
    AlikeOutcome (runFor (n + 1) s) (runFor (n + 1) t) := by
  cases hu : step s with
  | fault r => cases r
  | next u =>
    cases hv : step t with
    | next v =>
      simp only [hu, hv, AlikeOutcome] at h
      simpa only [runFor, hu, hv] using hrun u v hu h
    | fault r => cases r
    | refused r => simp [hu, hv, AlikeOutcome] at h
  | refused a =>
    cases hv : step t with
    | next v => simp [hu, hv, AlikeOutcome] at h
    | fault r => cases r
    | refused b => simpa only [runFor, hu, hv] using h

/-- The simulation: alike states run alike under host events, for any number of steps. -/
theorem runFor_alike {n : Nat} (hs : HostOnly s) (h : Alike s t) : AlikeOutcome (runFor n s) (runFor n t) := by
  induction n generalizing s t with
  | zero => exact h
  | succ n ih => exact runFor_succ_alike (step_alike hs h) fun _ _ hu => ih (step_keeps_hostOnly hs hu)

end Alike

/-! ### The obligations -/

/-- Settles O57: `START` makes the two states alike whatever they held before, and alike states run alike. -/
theorem writeForgetsTheHistory : Obligations.WriteForgetsTheHistory := by
  intro s t m rest hhost hc hsp htp hsr htr hsi hti hport hrep n
  have hfirst : AlikeOutcome (step s) (step t) := by
    refine step_alike_of_take hc hsr htr hsi hti fun i hm => ?_
    obtain ⟨colors, ended, rfl⟩ := fetch_write hport hm
    exact execWrite_alike_of_idle colors ended hsp htp hc (hsr.trans htr.symm) rfl hrep
  exact runFor_succ_alike hfirst fun u v hu => runFor_alike (step_keeps_hostOnly hhost hu)

/-- Settles O19, by the three things a step can be. -/
theorem configurationNeverChanges : Obligations.ConfigurationNeverChanges :=
  fun _ _ => step_cfg

theorem reset_cfg_wf : State.reset.cfg.wf = true := by decide

/-- Settles O45: with no request outstanding and nothing in the inbox, the step of the reset state is a hold. -/
theorem resetStateAndSilence : Obligations.ResetStateAndSilence := by
  have hlookup (v : Byte) : exec (.lookup v) State.reset =
      .next { State.reset with res := .row (wordToBytes (word v)) } := by
    rw [← row_w4 (c := State.reset.cfg) rfl, ← lookup_eq_row]
    rfl
  have hsilent : step State.reset = .next State.reset := step_hold reset_cfg_wf rfl rfl
  exact ⟨rfl, rfl, rfl, rfl, rfl, rfl, rfl, rfl, rfl, rfl, reset_cfg_wf, rfl, rfl, hlookup,
    runFor_of_step_self hsilent⟩

theorem topClear_zeros (n : Nat) : TopClear (zeros n) := by
  intro x hx
  rw [List.eq_of_mem_replicate hx]
  rfl

/-- Settles O46: the inbox and the ghosts are empty, and `BUF` holds twelve zero bytes. -/
theorem resetMeetsTheInvariants : Obligations.ResetMeetsTheInvariants := by
  have hsequenced : Sequenced State.reset := ⟨List.forall_mem_nil _, rfl, rfl⟩
  have hsafe : IdleSafe State.reset := ⟨topClear_zeros 12, List.forall_mem_nil _, List.forall_mem_nil _, rfl⟩
  exact ⟨hsequenced, .inl ⟨rfl, rfl⟩, hsafe, [], .nil, rfl⟩

end Sys2Proof.Machine
end

section
/-! The table space and the transport's requests (20_memory.md): which reads the table answers and where a row's bytes
stand, that one request is outstanding at a time, and that `WIRE` is what the recorded requests put on it, in order. -/

namespace Sys2Proof.Machine

/-! ### The table space (R32, R39) -/

/-- What `MemRead` answers: its guard, and the slice of the flat table. -/
theorem memRead_eq_some {c : Cfg} {addr n : Nat} {bytes : List Byte} :
    memRead c addr n = some bytes ↔
      (n = c.w ∧ addr % c.w = 0 ∧ addr + n ≤ 256 * c.w) ∧ ((tbuild c).flatten.drop addr).take n = bytes := by
  unfold memRead
  split_ifs with hguard
  · rw [Option.some.injEq]
    exact ⟨fun hbytes => ⟨hguard, hbytes⟩, And.right⟩
  · exact ⟨nofun, fun h => absurd h.1 hguard⟩

theorem tbuild_flatten_length (c : Cfg) : (tbuild c).flatten.length = 256 * c.w := by
  have hwidths : (tbuild c).map List.length = (tbuild c).map fun _ => c.w :=
    List.map_congr_left fun _ => mem_tbuild_length
  rw [List.length_flatten, hwidths, List.map_const', tbuild_length, List.sum_replicate_nat]

/-! ### What one operation can do to the state -/

/-- Everything an operation that answers a next state can be: a result put, `BUF` packed, `START`, or a request handed to
the idle transport. -/
theorem exec_next_cases {i : Instr} {s t : State} (h : exec i s = .next t) :
    (∃ r, t = putResult r s) ∨
    (∃ c, i = .pack c ∧ t = packBuf c s) ∨
    (∃ colors ended, i = .write colors ended ∧ s.phase = .idle ∧
      t = { start s with inbox := hostTokens colors ended ++ s.inbox }) ∨
    (s.req = none ∧ ∃ cin buf bytes p, t = { s with cin := cin, buf := buf, req := some bytes, phase := p }) := by
  cases i with
  | sym _ | encn _ | encb _ | row _ | tbuild | lookup _ | decode _ | shift _ =>
    cases h
    exact .inl ⟨_, rfl⟩
  | pack c =>
    cases h
    exact .inr (.inl ⟨c, rfl, rfl⟩)
  | write colors ended => exact .inr (.inr (.inl ⟨colors, ended, rfl, execWrite_eq_next.1 h⟩))
  | emitc =>
    obtain ⟨-, hr, rfl⟩ := execEmitc_eq_next.1 h
    exact .inr (.inr (.inr ⟨hr, _, _, _, _, rfl⟩))
  | emitr =>
    obtain ⟨-, hr, rfl⟩ := execEmitr_eq_next.1 h
    exact .inr (.inr (.inr ⟨hr, _, _, _, _, rfl⟩))
  | tokenColor c =>
    obtain ⟨-, hr, rfl⟩ := execTokenColor_eq_next.1 h
    exact .inr (.inr (.inr ⟨hr, _, _, _, _, rfl⟩))
  | tokenEnd =>
    obtain ⟨-, hr, rfl⟩ := execTokenEnd_eq_next.1 h
    exact .inr (.inr (.inr ⟨hr, _, _, _, _, rfl⟩))
  | txwrite bytes =>
    obtain ⟨hr, rfl⟩ := execTxwrite_eq_next.1 h
    exact .inr (.inr (.inr ⟨hr, _, _, _, _, rfl⟩))

/-! ### `WIRE` and `TRACE` (R43, R110, R111) -/

theorem Reply.wirePart_transmitted (bytes : List Byte) (a : Reply) :
    WirePart ⟨bytes, a.answer⟩ (a.transmitted bytes) := by
  cases a with
  | ok => exact ⟨List.prefix_rfl, fun _ => rfl⟩
  | err e sent => exact ⟨List.take_prefix sent bytes, fun h => nomatch h⟩

theorem advance_trace {E : Type} (a : Answer E) (s : State E) : (advance a s).trace = s.trace := by
  obtain ⟨-, h⟩ | ⟨-, -, h⟩ | ⟨-, h⟩ := advance_cases a s <;> rw [h]
  · rw [enterFetch_trace]
  · rw [deliverDone_trace]

theorem advance_wire {E : Type} (a : Answer E) (s : State E) : (advance a s).wire = s.wire := by
  obtain ⟨-, h⟩ | ⟨-, -, h⟩ | ⟨-, h⟩ := advance_cases a s <;> rw [h]
  · rw [enterFetch_wire]
  · rw [deliverDone_wire]

/-- The invariant speaks of the two ghosts only. -/
theorem WireFollowsTrace.of_ghosts_eq {s t : State} (h : WireFollowsTrace s) (ht : t.trace = s.trace)
    (hw : t.wire = s.wire) : WireFollowsTrace t := by
  rwa [WireFollowsTrace, ht, hw]

theorem wireFollowsTrace_of_ghosts_empty {s : State} (ht : s.trace = []) (hw : s.wire = []) : WireFollowsTrace s :=
  ⟨[], ht ▸ .nil, hw⟩

/-- An answer appends one entry and its part. -/
theorem WireFollowsTrace.settle {s : State} (h : WireFollowsTrace s) (bytes : List Byte) (a : Reply) :
    WireFollowsTrace (settle bytes a s) := by
  obtain ⟨parts, hparts, hwire⟩ := h
  have hlast := List.Forall₂.cons (a.wirePart_transmitted bytes) .nil
  exact ⟨parts ++ [a.transmitted bytes], List.rel_append hparts hlast, by simp [hwire]⟩

/-- An operation leaves the ghosts, or clears both (`START`, R89). -/
theorem exec_keeps_wireFollowsTrace {i : Instr} {s t : State} (hs : WireFollowsTrace s) (h : exec i s = .next t) :
    WireFollowsTrace t := by
  obtain ⟨r, rfl⟩ | ⟨c, -, rfl⟩ | ⟨colors, ended, -, -, rfl⟩ | ⟨-, cin, buf, bytes, p, rfl⟩ := exec_next_cases h
  · exact hs.of_ghosts_eq rfl rfl
  · exact hs.of_ghosts_eq rfl rfl
  · exact wireFollowsTrace_of_ghosts_empty rfl rfl
  · exact hs.of_ghosts_eq rfl rfl

/-! ### The obligations -/

/-- Settles O50: an answer appends one entry and its part, a hold changes nothing, an operation leaves or clears both. -/
theorem stepKeepsWireInOrder : Obligations.StepKeepsWireInOrder := by
  intro s t hs h
  obtain ⟨bytes, a, rest, -, -, rfl⟩ | rfl | ⟨m, rest, i, -, -, -, he⟩ := step_next_cases h
  · have hanswered : WireFollowsTrace { s with replies := rest } := hs.of_ghosts_eq rfl rfl
    exact (hanswered.settle bytes a).of_ghosts_eq (advance_trace ..) (advance_wire ..)
  · exact hs
  · have htaken : WireFollowsTrace { s with inbox := rest } := hs.of_ghosts_eq rfl rfl
    exact exec_keeps_wireFollowsTrace htaken he

/-- Settles O8: an answered address is a multiple of `W` with a whole row after it, so its quotient by `W` is a byte. -/
theorem memReadAnswersWholeRowsOnly : Obligations.MemReadAnswersWholeRowsOnly := by
  intro c addr n
  constructor
  · rintro ⟨bytes, h⟩
    obtain ⟨⟨rfl, haligned, hfit⟩, -⟩ := memRead_eq_some.1 h
    have hlt : addr < 256 * c.w := (Nat.lt_add_of_pos_right c.w_pos).trans_le hfit
    have hquot : addr / c.w < 256 := (Nat.div_lt_iff_lt_mul c.w_pos).2 hlt
    refine ⟨BitVec.ofNat 8 (addr / c.w), ?_, rfl⟩
    rw [BitVec.toNat_ofNat, Nat.mod_eq_of_lt hquot, Nat.div_mul_cancel (Nat.dvd_of_mod_eq_zero haligned)]
  · rintro ⟨v, rfl, rfl⟩
    exact ⟨row c v, memRead_row c v⟩

/-- Settles O9: row `v` is the slice of the flat table that `MemRead(v * W, W)` answers. -/
theorem tableByteStandsAtRowTimesWidth : Obligations.TableByteStandsAtRowTimesWidth := by
  intro c v j hj
  obtain ⟨-, hrow⟩ := memRead_eq_some.1 (memRead_row c v)
  refine ⟨tbuild_flatten_length c, ?_⟩
  rw [← hrow, List.getElem?_take_of_lt hj, List.getElem?_drop]

/-- Settles O28: a result, a `PACK` and a `START` leave the request, and every operation that issues asks for none. -/
theorem oneRequestOutstanding : Obligations.OneRequestOutstanding := by
  intro s pending hpending
  refine ⟨fun i t h => ?_, fun bytes => issue_of_some hpending⟩
  obtain ⟨r, rfl⟩ | ⟨c, -, rfl⟩ | ⟨colors, ended, -, -, rfl⟩ | ⟨hnone, -⟩ := exec_next_cases h
  · exact hpending
  · exact hpending
  · exact hpending
  · rw [hpending] at hnone
    cases hnone

end Sys2Proof.Machine
end

section
/-! The formats of the operations (30_encoding.md): the decoder reads every operation back from its encoding. Pairs of
bits come back from their bytes, so groups and words do (R49 to R51), and a colour sequence token by token (R55). -/

namespace Sys2Proof.Machine

/-! ### Symbols, groups and words (R48 to R51) -/

theorem unpairByte_pairByte (p : BitVec 2) : unpairByte (pairByte p) = some p := by
  revert p
  decide

theorem ungroup_pairByte (p1 p0 : BitVec 2) : ungroup (pairByte p1) (pairByte p0) = .ok (p1 ++ p0) := by
  simp only [ungroup, unpairByte_pairByte]

theorem unword_pairByte (p3 p2 p1 p0 : BitVec 2) :
    unword (pairByte p3) (pairByte p2) (pairByte p1) (pairByte p0) = .ok ((p3 ++ p2) ++ (p1 ++ p0)) := by
  simp only [unword, ungroup_pairByte]

theorem ungroup_of_groupBytes {n : BitVec 4} {x0 x1 : Byte} (h : groupBytes n = [x0, x1]) : ungroup x0 x1 = .ok n := by
  cases h
  rw [ungroup_pairByte, BitVec.extractLsb'_append_extractLsb'_eq_extractLsb' (by rfl),
    BitVec.extractLsb'_eq_self]

theorem unword_of_wordBytes {v x0 x1 x2 x3 : Byte} (h : wordBytes v = [x0, x1, x2, x3]) :
    unword x0 x1 x2 x3 = .ok v := by
  cases h
  rw [unword_pairByte]
  iterate 3 rw [BitVec.extractLsb'_append_extractLsb'_eq_extractLsb' (by rfl)]
  rw [BitVec.extractLsb'_eq_self]

/-- A frame's bytes are three words in the wire order green, red, blue (R53). -/
theorem decode_pack_words (c : Color) :
    decode .pack (wordBytes c.g ++ wordBytes c.r ++ wordBytes c.b) = .ok (.pack c) := by
  simp only [wordBytes, List.cons_append, List.nil_append, decode, unword_of_wordBytes rfl]

/-! ### Tokens and colour sequences (R55, R90) -/

theorem unsequence_colorToken_append (c : Color) (bytes : List Byte) :
    unsequence (colorToken c ++ bytes) = (unsequence bytes).map fun q => (c :: q.1, q.2) := by
  simp only [colorToken, List.cons_append, List.nil_append, unsequence, untoken, if_true]
  cases unsequence bytes <;> rfl

theorem unsequence_tokens (colors : List Color) (ended : Bool) :
    unsequence (colors.flatMap colorToken ++ if ended then endToken else []) = .ok (colors, ended) := by
  induction colors with
  | nil => cases ended <;> rfl
  | cons c cs ih =>
    rw [List.flatMap_cons, List.append_assoc, unsequence_colorToken_append, ih]
    rfl

/-- Bit 24 alone makes a token `END`: its other bits are ignored (R55). -/
theorem decode_token_end (r g b : Byte) : decode .token [0x01#8, r, g, b] = .ok .tokenEnd := rfl

/-! ### The obligations -/

/-- Settles O42, operation by operation: the operands of the formats with symbols come back by `ungroup` and `unword`, a
colour sequence by `unsequence`; every other format carries its operand's bytes as they are, or no operand. -/
theorem decodeInvertsEncode : Obligations.DecodeInvertsEncode := by
  intro i
  cases i with
  | sym b => cases b <;> rfl
  | encn n => exact congrArg (Except.map Instr.encn) (ungroup_of_groupBytes rfl)
  | encb v => exact congrArg (Except.map Instr.encb) (unword_of_wordBytes rfl)
  | row v => exact congrArg (Except.map Instr.row) (unword_of_wordBytes rfl)
  | pack c => exact decode_pack_words c
  | write colors ended => exact congrArg (Except.map fun q => Instr.write q.1 q.2) (unsequence_tokens colors ended)
  | tbuild | emitc | emitr => rfl
  | lookup _ | decode _ | tokenColor _ | tokenEnd | txwrite _ | shift _ => rfl

/-- Settles O43: all but the last two words are encodings, `END` has its ignored bits set, and the last word's final
group `0101` is no symbol. -/
theorem writtenOutWordsDecode : Obligations.WrittenOutWordsDecode :=
  ⟨decodeInvertsEncode (.sym true), decodeInvertsEncode (.encn 0xC#4), decodeInvertsEncode (.row 0x4C#8),
    decodeInvertsEncode (.tokenColor ⟨0x12#8, 0x34#8, 0x56#8⟩), decode_token_end _ _ _, rfl⟩

end Sys2Proof.Machine
end

section
/-! The generator, the table and the checker (40_encoder.md): a word is eight symbols, a row of the four-byte table four
pairs of symbols, and from these two shapes follow the closed form, the waveform and the round trip. -/

namespace Sys2Proof

theorem Width.bytes_le_four (w : Width) : w.bytes ≤ 4 := by cases w <;> simp [Width.bytes]

theorem Cfg.w_le_four (c : Cfg) : c.w ≤ 4 := Width.bytes_le_four c.width

end Sys2Proof

namespace Sys2Proof.Machine

/-! ### One symbol (R65) -/

theorem symbol_eq_or (b : Bool) :
    symbol b = 0b0100#4 ||| ((BitVec.ofBool b).zeroExtend 4 <<< 1) ||| (BitVec.ofBool b).zeroExtend 4 := by
  cases b <;> rfl

theorem dsym_eq_some {q : BitVec 4} {b : Bool} : dsym q = some b ↔ q = symbol b := by
  revert q b
  decide

theorem exists_eq_symbol {q : BitVec 4} : (∃ b, q = symbol b) ↔ q = 0b0100#4 ∨ q = 0b0111#4 :=
  Bool.exists_bool

/-! ### Symbols in a longer word (R49, R58, R66, R67) -/

/-- Symbol `i` of `x`, counted from the least significant end, is that of the bit `b`: `0 1 b b`. -/
def HasSymbol {w : Nat} (x : BitVec w) (i : Nat) (b : Bool) : Prop :=
  x.getLsbD (4 * i + 3) = false ∧ x.getLsbD (4 * i + 2) = true ∧ x.getLsbD (4 * i + 1) = b ∧ x.getLsbD (4 * i) = b

/-- It is a matter of four bits, wherever they stand. -/
theorem HasSymbol.of_bits_eq {k w i j : Nat} {x : BitVec k} {y : BitVec w} {b : Bool} (h : HasSymbol x i b)
    (hbits : ∀ d < 4, y.getLsbD (4 * j + d) = x.getLsbD (4 * i + d)) : HasSymbol y j b := by
  obtain ⟨h3, h2, h1, h0⟩ := h
  exact ⟨(hbits 3 (by decide)).trans h3, (hbits 2 (by decide)).trans h2, (hbits 1 (by decide)).trans h1,
    (hbits 0 (by decide)).trans h0⟩

theorem group_hasSymbol (n : BitVec 4) {i : Nat} (hi : i < 4) : HasSymbol (group n) i (nibbleBit n i) := by
  unfold HasSymbol
  revert n i
  decide

theorem nibbleBit_loNibble (v : Byte) {i : Nat} (hi : i < 4) : nibbleBit (loNibble v) i = byteBit v i := by
  simp [nibbleBit, loNibble, byteBit, hi]

theorem nibbleBit_hiNibble (v : Byte) {i : Nat} (hi : i < 4) : nibbleBit (hiNibble v) i = byteBit v (i + 4) := by
  simp [nibbleBit, hiNibble, byteBit, hi, Nat.add_comm]

/-- Symbols 0 to 3 of the word are those of the low group, 4 to 7 those of the high group. -/
theorem word_hasSymbol (v : Byte) {i : Nat} (hi : i < 8) : HasSymbol (word v) i (byteBit v i) := by
  by_cases hlow : i < 4
  · rw [← nibbleBit_loNibble v hlow]
    refine (group_hasSymbol _ hlow).of_bits_eq fun d hd => ?_
    rw [word_getLsbD, if_pos (by omega)]
  · obtain ⟨j, rfl⟩ := Nat.exists_eq_add_of_le' (Nat.le_of_not_lt hlow)
    have hj : j < 4 := by omega
    have hplace (d : Nat) : 4 * (j + 4) + d - 16 = 4 * j + d := by omega
    rw [← nibbleBit_hiNibble v hj]
    refine (group_hasSymbol _ hj).of_bits_eq fun d hd => ?_
    rw [word_getLsbD, if_neg (by omega), hplace]

/-! ### The closed form (R68) -/

/-- A word like `word v`, with `f b` in the place of each symbol. -/
def spellGroup (f : Bool → BitVec 4) (n : BitVec 4) : BitVec 16 :=
  f (nibbleBit n 3) ++ f (nibbleBit n 2) ++ f (nibbleBit n 1) ++ f (nibbleBit n 0)

def spell (f : Bool → BitVec 4) (v : Byte) : BitVec 32 := spellGroup f (hiNibble v) ++ spellGroup f (loNibble v)

theorem spell_symbol (v : Byte) : spell symbol v = word v := rfl

/-- The two low bits of a symbol, which alone depend on the input bit. -/
def doubledBit (b : Bool) : BitVec 4 := if b then 0b0011#4 else 0b0000#4

theorem symbol_eq_or_doubledBit (b : Bool) : symbol b = 0b0100#4 ||| doubledBit b := by
  cases b <;> rfl

theorem word_eq_or_spell_doubledBit (v : Byte) : word v = 0x44444444#32 ||| spell doubledBit v := by
  have hgroup (n : BitVec 4) : group n = 0x4444#16 ||| spellGroup doubledBit n := by
    simp only [group, symbol_eq_or_doubledBit, ← BitVec.or_append]
    rfl
  rw [word, hgroup, hgroup, ← BitVec.or_append]
  rfl

theorem toNat_append_eq_add {k w : Nat} (x : BitVec k) (y : BitVec w) :
    (x ++ y).toNat = x.toNat * 2 ^ w + y.toNat := by
  rw [BitVec.toNat_append, ← Nat.shiftLeft_add_eq_or_of_lt y.isLt, Nat.shiftLeft_eq]

/-- `spread` of a nibble (R68); `spread_eq_nibbles` ties it to the byte's. -/
def spreadNibble (n : BitVec 4) : Nat :=
  (nibbleBit n 3).toNat * 16 ^ 3 + (nibbleBit n 2).toNat * 16 ^ 2 + (nibbleBit n 1).toNat * 16 + (nibbleBit n 0).toNat

theorem spread_eq_nibbles (v : Byte) :
    spread v = spreadNibble (hiNibble v) * 2 ^ 16 + spreadNibble (loNibble v) := by
  have hterm (b : Bool) (n : Nat) : (if b then n else 0) = b.toNat * n := by
    cases b <;> simp
  simp only [spread, hterm, spreadNibble, nibbleBit_loNibble, nibbleBit_hiNibble, Nat.reduceLT, Nat.reduceAdd,
    List.sum_range_succ, List.range_zero, List.map_nil, List.sum_nil]
  omega

section Spelling

variable {f : Bool → BitVec 4} {c : Nat}

theorem spellGroup_toNat (hf : ∀ b, (f b).toNat = c + 3 * b.toNat) (n : BitVec 4) :
    (spellGroup f n).toNat = c * 0x1111 + 3 * spreadNibble n := by
  rw [spellGroup, toNat_append_eq_add, toNat_append_eq_add, toNat_append_eq_add, hf, hf, hf, hf, spreadNibble]
  omega

/-- With `c + 3 * b` for each bit `b`, the word is `c` in each digit and three times the spread byte. -/
theorem spell_toNat (hf : ∀ b, (f b).toNat = c + 3 * b.toNat) (v : Byte) :
    (spell f v).toNat = c * 0x11111111 + 3 * spread v := by
  rw [spell, toNat_append_eq_add, spellGroup_toNat hf, spellGroup_toNat hf, spread_eq_nibbles]
  omega

end Spelling

theorem word_toNat_eq_add (v : Byte) : (word v).toNat = 0x44444444 + 3 * spread v := by
  have hsymbol : ∀ b, (symbol b).toNat = 4 + 3 * b.toNat := by decide
  rw [← spell_symbol, spell_toNat hsymbol]

theorem word_toNat_eq_or (v : Byte) : (word v).toNat = 0x44444444 ||| (3 * spread v) := by
  have hdoubled : ∀ b, (doubledBit b).toNat = 0 + 3 * b.toNat := by decide
  rw [word_eq_or_spell_doubledBit, BitVec.toNat_or, spell_toNat hdoubled, Nat.zero_mul, Nat.zero_add]
  rfl

/-! ### The bytes of a word (R51, R69) -/

/-- A byte of two symbols, `0 1 a a 0 1 b b`. -/
def symbolPair (a b : Bool) : Byte := symbol a ++ symbol b

theorem eq_symbolPair_iff {x : Byte} {a b : Bool} :
    x = symbolPair a b ↔ x.extractLsb' 4 4 = symbol a ∧ x.extractLsb' 0 4 = symbol b := by
  constructor
  · rintro rfl
    exact ⟨BitVec.extractLsb'_append_eq_left, BitVec.extractLsb'_append_eq_right⟩
  · rintro ⟨hhi, hlo⟩
    rw [symbolPair, ← hhi, ← hlo]
    exact (BitVec.extractLsb'_append_extractLsb' (w := 4) (len := 4)).symm

/-- Which bytes are two symbols. -/
theorem exists_eq_symbolPair {x : Byte} : (∃ a b, x = symbolPair a b) ↔
    (x.extractLsb' 4 4 = 0b0100#4 ∨ x.extractLsb' 4 4 = 0b0111#4) ∧
      (x.extractLsb' 0 4 = 0b0100#4 ∨ x.extractLsb' 0 4 = 0b0111#4) := by
  simp only [eq_symbolPair_iff, exists_and_left, exists_and_right, exists_eq_symbol]

theorem symbolPair_eq_or (a b : Bool) :
    symbolPair a b = 0x44#8 ||| ((if a then 3#8 else 0#8) <<< 4) ||| (if b then 3#8 else 0#8) := by
  cases a <;> cases b <;> rfl

theorem group_eq_symbolPairs (n : BitVec 4) :
    group n = symbolPair (nibbleBit n 3) (nibbleBit n 2) ++ symbolPair (nibbleBit n 1) (nibbleBit n 0) := by
  revert n
  decide

theorem wordToBytes_append (hi lo : BitVec 16) : wordToBytes (hi ++ lo) =
    [hi.extractLsb' 8 8, hi.extractLsb' 0 8, lo.extractLsb' 8 8, lo.extractLsb' 0 8] := by
  rw [wordToBytes, BitVec.extractLsb'_append_eq_of_le (by decide), BitVec.extractLsb'_append_eq_of_le (by decide),
    BitVec.extractLsb'_append_eq_of_add_le (by decide), BitVec.extractLsb'_append_eq_of_add_le (by decide)]

/-- The bytes of a word hold the input bits two by two, most significant first. -/
theorem wordToBytes_word (v : Byte) : wordToBytes (word v) =
    [symbolPair (byteBit v 7) (byteBit v 6), symbolPair (byteBit v 5) (byteBit v 4),
     symbolPair (byteBit v 3) (byteBit v 2), symbolPair (byteBit v 1) (byteBit v 0)] := by
  simp only [word, wordToBytes_append, group_eq_symbolPairs, nibbleBit_loNibble, nibbleBit_hiNibble, Nat.reduceLT,
    Nat.reduceAdd]
  rw [BitVec.extractLsb'_append_eq_left, BitVec.extractLsb'_append_eq_right, BitVec.extractLsb'_append_eq_left,
    BitVec.extractLsb'_append_eq_right]

theorem mem_wordToBytes_word {v x : Byte} (hx : x ∈ wordToBytes (word v)) : ∃ a b, x = symbolPair a b := by
  rw [wordToBytes_word] at hx
  simp only [List.mem_cons, List.not_mem_nil, or_false] at hx
  obtain rfl | rfl | rfl | rfl := hx <;> exact ⟨_, _, rfl⟩

theorem mem_row_w4 {c : Cfg} (hc : c.width = .w4) {v x : Byte} (hx : x ∈ row c v) : ∃ a b, x = symbolPair a b :=
  mem_wordToBytes_word (row_w4 hc v ▸ hx)

/-! ### The checker (R72, R73) -/

/-- The bits `a` and `b` shifted in below `v`: one turn of `DECODE`'s loop on the byte of `a` and `b`. -/
def shiftInPair (v : Byte) (a b : Bool) : Byte :=
  (v <<< 2) ||| ((BitVec.ofBool a).zeroExtend 8 <<< 1) ||| (BitVec.ofBool b).zeroExtend 8

theorem byteBit_shiftInPair_zero (v : Byte) (a b : Bool) : byteBit (shiftInPair v a b) 0 = b := by
  simp [byteBit, shiftInPair]

theorem byteBit_shiftInPair_one (v : Byte) (a b : Bool) : byteBit (shiftInPair v a b) 1 = a := by
  simp [byteBit, shiftInPair]

theorem byteBit_shiftInPair_add_two (v : Byte) (a b : Bool) {i : Nat} (hi : i + 2 < 8) :
    byteBit (shiftInPair v a b) (i + 2) = byteBit v i := by
  simp [byteBit, shiftInPair, hi, BitVec.getLsbD_eq_getElem (show i < 8 by omega)]

theorem decodeByte_eq_some {v x u : Byte} :
    decodeByte v x = some u ↔ ∃ a b, x = symbolPair a b ∧ shiftInPair v a b = u := by
  have hbind : decodeByte v x =
      (dsym (x.extractLsb' 4 4)).bind fun a => (dsym (x.extractLsb' 0 4)).map fun b => shiftInPair v a b := by
    unfold decodeByte
    cases dsym (x.extractLsb' 4 4) <;> cases dsym (x.extractLsb' 0 4) <;> rfl
  simp only [hbind, Option.bind_eq_some_iff, Option.map_eq_some_iff, dsym_eq_some, eq_symbolPair_iff, and_assoc,
    exists_and_left]

theorem decodeByte_symbolPair (v : Byte) (a b : Bool) : decodeByte v (symbolPair a b) = some (shiftInPair v a b) :=
  decodeByte_eq_some.2 ⟨a, b, rfl, rfl⟩

/-- Four turns of the loop put every bit of a byte in its place. -/
theorem shiftInPair_bits (v : Byte) :
    shiftInPair (shiftInPair (shiftInPair (shiftInPair 0#8 (byteBit v 7) (byteBit v 6)) (byteBit v 5) (byteBit v 4))
      (byteBit v 3) (byteBit v 2)) (byteBit v 1) (byteBit v 0) = v := by
  refine BitVec.eq_of_getLsbD_eq fun i hi => ?_
  change byteBit _ i = byteBit v i
  interval_cases i <;>
    simp only [byteBit_shiftInPair_zero, byteBit_shiftInPair_one, byteBit_shiftInPair_add_two, Nat.reduceLT,
      Nat.reduceAdd]

/-- `DECODE` answers `v` on the row of `v` and on no other list. -/
theorem decodeRow_eq_some {bytes : List Byte} {v : Byte} :
    decodeRow bytes = some v ↔ bytes = wordToBytes (word v) := by
  rw [wordToBytes_word]
  constructor
  · intro h
    unfold decodeRow at h
    split at h
    · simp only [Option.bind_eq_some_iff, decodeByte_eq_some] at h
      obtain ⟨_, ⟨a3, b3, rfl, rfl⟩, _, ⟨a2, b2, rfl, rfl⟩, _, ⟨a1, b1, rfl, rfl⟩, a0, b0, rfl, rfl⟩ := h
      simp only [byteBit_shiftInPair_zero, byteBit_shiftInPair_one, byteBit_shiftInPair_add_two, Nat.reduceLT,
        Nat.reduceAdd]
    · cases h
  · rintro rfl
    simp only [decodeRow, decodeByte_symbolPair, Option.bind_some, shiftInPair_bits]

theorem decodeRow_isSome {bytes : List Byte} :
    (decodeRow bytes).isSome = true ↔ bytes.length = 4 ∧ ∀ x ∈ bytes, ∃ a b, x = symbolPair a b := by
  constructor
  · intro h
    obtain ⟨v, hv⟩ := Option.isSome_iff_exists.1 h
    obtain rfl := decodeRow_eq_some.1 hv
    exact ⟨rfl, fun x hx => mem_wordToBytes_word hx⟩
  · rintro ⟨hlen, hpairs⟩
    match bytes, hlen with
    | [s0, s1, s2, s3], _ =>
      simp only [List.forall_mem_cons] at hpairs
      obtain ⟨⟨a3, b3, rfl⟩, ⟨a2, b2, rfl⟩, ⟨a1, b1, rfl⟩, ⟨a0, b0, rfl⟩, -⟩ := hpairs
      simp only [decodeRow, decodeByte_symbolPair, Option.bind_some, Option.isSome_some]

/-! ### The waveform and the bits of a row (R77, R78) -/

theorem shiftLevels_symbolPair (a b : Bool) : shiftLevels (symbolPair a b) = symbolLevels a ++ symbolLevels b := by
  cases a <;> cases b <;> rfl

theorem waveform_row_w4 {c : Cfg} (hc : c.width = .w4) (v : Byte) :
    waveform (row c v) = (bitsMsbFirst v).flatMap symbolLevels := by
  simp only [row_w4 hc, wordToBytes_word, waveform, bitsMsbFirst, List.flatMap_cons, List.flatMap_nil,
    shiftLevels_symbolPair, List.append_assoc]

theorem countP_eq_sum_toNat {α : Type} (p : α → Bool) (xs : List α) :
    xs.countP p = (xs.map fun x => (p x).toNat).sum := by
  induction xs with
  | nil => rfl
  | cons x xs ih => cases h : p x <;> simp [h, ih, Nat.add_comm]

theorem popcount_eq_sum (v : Byte) : popcount v = ((List.range 8).map fun i => (byteBit v i).toNat).sum :=
  countP_eq_sum_toNat _ _

theorem popcount_symbolPair (a b : Bool) : popcount (symbolPair a b) = 2 + 2 * (a.toNat + b.toNat) := by
  cases a <;> cases b <;> rfl

theorem sum_popcount_row_w4 {c : Cfg} (hc : c.width = .w4) (v : Byte) :
    ((row c v).map popcount).sum = 8 + 2 * popcount v := by
  rw [row_w4 hc, wordToBytes_word, popcount_eq_sum v]
  simp only [List.map_cons, List.map_nil, List.sum_cons, List.sum_nil, popcount_symbolPair, List.sum_range_succ,
    List.range_zero]
  omega

/-! ### A uniform 3-bit code (R74) -/

/-- The row of a byte whose bits are all one pattern `p` has bits 2, 0 and 1 of `p` on top of its three bytes. -/
theorem eq_zero_of_topClear_repeated :
    ∀ p : BitVec 3, TopClear (row3ToBytes (row3OfWord (p ++ p ++ p ++ p ++ p ++ p ++ p ++ p))) → p = 0b000#3 := by
  unfold TopClear
  decide

theorem topClear_uniformWord {c : Cfg} {p0 p1 : BitVec 3} (hc : c.width = .w3 (uniformTable3 p0 p1))
    (h : TableIdleSafe c) (v : Byte) : TopClear (row3ToBytes (row3OfWord (uniformWord p0 p1 v))) := by
  have hrow := h v
  rwa [row_w3 hc, uniformTable3_getElem] at hrow

/-! ### The table however it is held (R80) -/

theorem foldl_set_length {α : Type} (f : Nat → α) (vs : List Nat) (table : List α) :
    (vs.foldl (fun t v => t.set v (f v)) table).length = table.length := by
  induction vs generalizing table with
  | nil => rfl
  | cons v vs ih => rw [List.foldl_cons, ih, List.length_set]

/-- After the first `n` writes the first `n` cells hold what was written. -/
theorem foldl_set_range_getElem? {α : Type} (f : Nat → α) (table : List α) {n i : Nat} (hi : i < n)
    (hlen : i < table.length) : ((List.range n).foldl (fun t v => t.set v (f v)) table)[i]? = some (f i) := by
  induction n with
  | zero => exact absurd hi (Nat.not_lt_zero i)
  | succ n ih =>
    rw [List.range_succ, List.foldl_append, List.foldl_cons, List.foldl_nil]
    obtain rfl | hne := eq_or_ne i n
    · rw [List.getElem?_set_self (by rwa [foldl_set_length])]
    · rw [List.getElem?_set_ne hne.symm]
      exact ih (by omega)

theorem fillTable_getElem? (c : Cfg) {before : List (List Byte)} (hlen : before.length = 256) (v : Byte) :
    (fillTable c before)[v.toNat]? = some (row c v) := by
  have hv : v.toNat < 256 := v.isLt
  rw [fillTable, foldl_set_range_getElem? _ _ hv (hlen ▸ hv), BitVec.ofNat_toNat, BitVec.setWidth_eq]

theorem lookupBy_eq_row (form : TableForm) (c : Cfg) (v : Byte) : lookupBy form c v = row c v := by
  cases form with
  | onDemand => rfl
  | rom => rw [lookupBy, List.getD_eq_getElem?_getD, tbuild_getElem?, Option.getD_some]
  | ram before =>
    rw [lookupBy, List.getD_eq_getElem?_getD, fillTable_getElem? c before.length_toList, Option.getD_some]

theorem packBufBy_eq_packBuf {E : Type} (form : TableForm) (c : Color) (s : State E) :
    packBufBy form c s = packBuf c s := by
  simp only [packBufBy, lookupBy_eq_row, packBuf, frame_eq_specFrame, specFrame]

/-- Only four operations read the table, and they read the same rows. -/
theorem execBy_eq_execOf {E : Type} (form : TableForm) (i : Instr) (s : State E) : execBy form i s = execOf i s := by
  cases i with
  | lookup v => simp only [execBy, execOf, execLookup, lookupBy_eq_row, lookup_eq_row]
  | pack c => simp only [execBy, execOf, execPack, packBufBy_eq_packBuf]
  | tokenColor c => simp only [execBy, execOf, execTokenColor, packBufBy_eq_packBuf]
  | tbuild => simp only [execBy, execOf, execTbuild, lookupBy_eq_row, tbuild]
  | sym _ | encn _ | encb _ | row _ | decode _ | emitc | emitr | write _ _ | tokenEnd | txwrite _ | shift _ => rfl

theorem stepBy_eq_step (form : TableForm) (s : State) : stepBy form s = step s := by
  have hrun : (execBy form : Instr → State → _) = execOf := funext fun i => funext (execBy_eq_execOf form i)
  rw [step_eq_stepOf, stepBy, stepOf, hrun]

/-! ### What the table's operations answer -/

theorem exec_row (v : Byte) (s : State) : exec (.row v) s = .next { s with res := .row (row s.cfg v) } := rfl

theorem exec_row_eq_iff {v : Byte} {s : State} {bytes : List Byte} :
    exec (.row v) s = .next { s with res := .row bytes } ↔ row s.cfg v = bytes := by
  simp only [exec_row, Host.Outcome.next.injEq, State.mk.injEq, OpResult.row.injEq, true_and, and_true]

theorem exec_lookup (v : Byte) (s : State) : exec (.lookup v) s = .next { s with res := .row (row s.cfg v) } := by
  rw [← lookup_eq_row]
  rfl

theorem exec_decode (bytes : List Byte) (s : State) :
    exec (.decode bytes) s = .next { s with res := .decoded (decodeRow bytes) } := rfl

/-! ### The obligations -/

/-- Settles O4: the word is the symbol `0100` eight times plus, and without a carry also or, the doubled input bits. -/
theorem encbIsTheClosedForm : Obligations.EncbIsTheClosedForm :=
  fun v _ => ⟨word v, rfl, word_toNat_eq_add v, word_toNat_eq_or v, fun _ => word_hasSymbol v⟩

/-- Settles O5: both forms of a row byte are the symbols of two neighbouring input bits. -/
theorem rowIsTheWordsBytesOrTable3 : Obligations.RowIsTheWordsBytesOrTable3 := by
  intro v s
  constructor
  · intro hc
    refine ⟨word v, wordToBytes (word v), rfl, exec_row_eq_iff.2 (row_w4 hc v), rfl, ?_⟩
    simp only [wordToBytes_word, symbolPair_eq_or]
    rfl
  · intro t hc
    exact exec_row_eq_iff.2 (row_w3 hc v)

/-- Settles O6: row `v` of the table is `ROW(v)`. -/
theorem tbuildTabulatesEveryRow : Obligations.TbuildTabulatesEveryRow :=
  fun s => ⟨tbuild s.cfg, rfl, tbuild_length s.cfg, fun v => ⟨row s.cfg v, tbuild_getElem? s.cfg v, exec_row v s⟩⟩

/-- Settles O7: `LOOKUP(v)` is the read of row `v`, and in each form the rows read are those of `ROW`. -/
theorem lookupReadsTheRow : Obligations.LookupReadsTheRow := by
  refine ⟨fun v s => ?_, fun form s => ⟨fun v => ?_, stepBy_eq_step form s⟩⟩
  · have haddr : v.toNat * s.cfg.w ≤ 1020 :=
      Nat.mul_le_mul (Nat.le_of_lt_succ v.isLt) s.cfg.w_le_four
    exact ⟨row s.cfg v, exec_lookup v s, memRead_row s.cfg v, tbuild_getElem? s.cfg v, exec_row v s,
      row_length s.cfg v, haddr⟩
  · rw [lookupBy_eq_row]
    exact exec_row v s

/-- Settles O10: `DECODE` answers `v` on the row of `v`, so two bytes with one row are the same answer. -/
theorem decodeRecoversEveryByte : Obligations.DecodeRecoversEveryByte := by
  intro v s hc
  have hdecode (u : Byte) : decodeRow (row s.cfg u) = some u := decodeRow_eq_some.2 (row_w4 hc u)
  refine ⟨row s.cfg v, exec_row v s, ?_, ?_, fun u hu => ?_⟩
  · rw [row_w4 hc]
    rfl
  · rw [exec_decode, hdecode]
  · have hsame := hdecode u
    rw [exec_row_eq_iff.1 hu, hdecode] at hsame
    exact (Option.some.inj hsame).symm

/-- Settles O11: `DECODE` answers exactly on four bytes of two symbols each, and `v` exactly on the row of `v`. -/
theorem decodeNeverGuesses : Obligations.DecodeNeverGuesses := by
  intro bytes s
  refine ⟨decodeRow bytes, exec_decode bytes s, ?_, fun v => decodeRow_eq_some⟩
  simp only [← exists_eq_symbolPair]
  exact decodeRow_isSome

/-- Settles O13: a row byte is one of the four pairs of symbols, and a pair has two bits set and two more for each 1. -/
theorem fourByteRowStructure : Obligations.FourByteRowStructure := by
  intro c v hc
  refine ⟨fun x hx => ?_, sum_popcount_row_w4 hc v⟩
  obtain ⟨a, b, rfl⟩ := mem_row_w4 hc hx
  cases a <;> cases b <;> decide

/-- Settles O14: the levels of a pair of symbols are those of its two input bits. -/
theorem fourByteRowWaveform : Obligations.FourByteRowWaveform := by
  intro c v hc
  rw [waveform_row_w4 hc]
  exact ⟨rfl, rfl⟩

/-- Settles O15, by the rows of two bytes: `00` is `p0` eight times, `FF` is `p1` eight times. -/
theorem uniformThreeBitCodeIsNotIdleSafe : Obligations.UniformThreeBitCodeIsNotIdleSafe := by
  intro c p0 p1 hc hsafe
  exact ⟨eq_zero_of_topClear_repeated p0 (topClear_uniformWord hc hsafe 0x00#8),
    eq_zero_of_topClear_repeated p1 (topClear_uniformWord hc hsafe 0xFF#8)⟩

/-- Settles O1, symbol by symbol. -/
theorem symGivesTheLiteralSymbol : Obligations.SymGivesTheLiteralSymbol :=
  fun b _ => ⟨symbol b, rfl, rfl, symbol_eq_or b⟩

/-- Settles O2, by the places of a nibble's symbols in its group. -/
theorem encnPlacesFourSymbols : Obligations.EncnPlacesFourSymbols :=
  fun n _ => ⟨group n, rfl, fun _ => group_hasSymbol n⟩

/-- Settles O3: `ENCB` is defined as the two groups together. -/
theorem encbConcatenatesTheGroups : Obligations.EncbConcatenatesTheGroups :=
  fun v _ => ⟨group (hiNibble v), group (loNibble v), rfl, rfl, rfl⟩

/-- Settles O40: each of the eight operations answers with its result put and nothing else; the other ports are excluded. -/
theorem pureOperationsChangeOnlyTheResult : Obligations.PureOperationsChangeOnlyTheResult := by
  intro i s t hport h
  cases i with
  | sym _ | encn _ | encb _ | row _ | tbuild | lookup _ | decode _ | shift _ =>
    cases h
    rfl
  | pack _ | emitc | emitr | write _ _ | tokenColor _ | tokenEnd | txwrite _ => simp [Instr.port] at hport

end Sys2Proof.Machine
end

section
/-! Idle safety (40_encoder.md R76, 42_transport_and_wire.md R116): every byte of the four-byte table has bit 7 clear, and
under host events so has every byte handed over or on the wire, so that the line stays low between requests. -/

namespace Sys2Proof.Machine

/-! ### What an answer leaves unchanged -/

theorem advance_buf {E : Type} (a : Answer E) (s : State E) : (advance a s).buf = s.buf := by
  obtain ⟨-, h⟩ | ⟨-, -, h⟩ | ⟨-, h⟩ := advance_cases a s <;> rw [h]
  · rw [enterFetch_buf]
  · rw [deliverDone_buf]

theorem advance_line {E : Type} (a : Answer E) (s : State E) : (advance a s).line = s.line := by
  obtain ⟨-, h⟩ | ⟨-, -, h⟩ | ⟨-, h⟩ := advance_cases a s <;> rw [h]
  · rw [enterFetch_line]
  · rw [deliverDone_line]

/-! ### Bytes whose bit 7 is clear -/

@[simp] theorem topClear_append {xs ys : List Byte} : TopClear (xs ++ ys) ↔ TopClear xs ∧ TopClear ys :=
  List.forall_mem_append

theorem TopClear.transmitted {E : Type} {bytes : List Byte} (h : TopClear bytes) (a : Reply E) :
    TopClear (a.transmitted bytes) := by
  cases a with
  | ok => exact h
  | err e sent => exact fun x hx => h x (List.mem_of_mem_take hx)

theorem tableIdleSafe_w4 {c : Cfg} (hc : c.width = .w4) : TableIdleSafe c := by
  intro v x hx
  obtain ⟨a, b, rfl⟩ := mem_row_w4 hc hx
  cases a <;> cases b <;> rfl

/-- A colour frame is three rows of the table. -/
theorem TableIdleSafe.frame {c : Cfg} (h : TableIdleSafe c) (col : Color) : TopClear (frame c col) := by
  rw [frame_eq_specFrame, specFrame, topClear_append, topClear_append]
  exact ⟨⟨h col.g, h col.r⟩, h col.b⟩

/-! ### The line and the pending request -/

/-- On such a platform the line stays low after bytes whose bit 7 is clear (R116). -/
theorem idleAfter_eq_low {s : State} {sent : List Byte} (hplatform : keepsLow s.cfg.idle) (hline : s.line = .low)
    (hsent : TopClear sent) : idleAfter s sent = .low := by
  unfold idleAfter
  cases hlast : sent.getLast? with
  | none => exact hline
  | some x =>
    have hx : byteBit x 7 = false := hsent x (List.mem_of_getLast? hlast)
    obtain hidle | hidle := hplatform <;> simp only [hidle]
    rw [hx]
    rfl

/-- Under host events the pending request is `BUF` or the reset frame (R88). -/
theorem Sequenced.req_cases {s : State} (h : Sequenced s) {bytes : List Byte} (hr : s.req = some bytes) :
    bytes = s.buf ∨ bytes = zeros s.cfg.nReset := by
  have hp := h.pending
  unfold PendingIsPhase at hp
  split at hp
  · cases hr.symm.trans hp
  · cases hr.symm.trans hp
  · exact .inl (Option.some.inj (hr.symm.trans hp))
  · exact .inr (Option.some.inj (hr.symm.trans hp))

/-! ### What keeps idle safety -/

theorem IdleSafe.settle {s : State} (h : IdleSafe s) {bytes : List Byte} (hb : TopClear bytes)
    (hplatform : keepsLow s.cfg.idle) (a : Reply) : IdleSafe (settle bytes a s) where
  buf := h.buf
  trace := List.forall_mem_append.2 ⟨h.trace, List.forall_mem_singleton.2 hb⟩
  wire := topClear_append.2 ⟨h.wire, hb.transmitted a⟩
  line := idleAfter_eq_low hplatform h.line (hb.transmitted a)

theorem IdleSafe.advance {s : State} (h : IdleSafe s) (a : Answer) : IdleSafe (advance a s) where
  buf := by rw [advance_buf]; exact h.buf
  trace := by rw [advance_trace]; exact h.trace
  wire := by rw [advance_wire]; exact h.wire
  line := by rw [advance_line]; exact h.line

/-- An operation the host can ask for packs a colour frame, clears the ghosts, or leaves all four alone. -/
theorem exec_keeps_idleSafe {m : Msg} {i : Instr} {s t : State} (hport : m.port = .write ∨ m.port = .token)
    (hm : fetch m = .ok i) (hs : IdleSafe s) (htable : TableIdleSafe s.cfg) (h : exec i s = .next t) : IdleSafe t := by
  obtain hp | hp := hport
  · obtain ⟨colors, ended, rfl⟩ := fetch_write hp hm
    obtain ⟨-, rfl⟩ := execWrite_eq_next.1 h
    exact { hs with trace := List.forall_mem_nil _, wire := List.forall_mem_nil _ }
  · obtain ⟨c, rfl⟩ | rfl := fetch_token hp hm
    · obtain ⟨-, -, rfl⟩ := execTokenColor_eq_next.1 h
      exact { hs with buf := htable.frame c }
    · obtain ⟨-, -, rfl⟩ := execTokenEnd_eq_next.1 h
      exact { hs with }

/-! ### The obligations -/

/-- Settles O12: each row byte starts with a symbol, whose first bit is 0. -/
theorem fourByteRowsAreIdleSafe : Obligations.FourByteRowsAreIdleSafe :=
  fun _ n hc => ⟨tableIdleSafe_w4 hc, topClear_zeros n⟩

/-- Settles O48: an answer is to `BUF` or to the reset frame, both idle-safe, and so is what it puts on the wire; a hold
changes nothing; a host event packs a frame of the table at most. -/
theorem stepKeepsIdleSafety : Obligations.StepKeepsIdleSafety := by
  intro s t hseq htable hplatform hs h
  obtain ⟨bytes, a, rest, hr, -, rfl⟩ | rfl | ⟨m, rest, i, -, hi, hm, he⟩ := step_next_cases h
  · have hb : TopClear bytes := by
      obtain rfl | rfl := hseq.req_cases hr
      · exact hs.buf
      · exact topClear_zeros _
    have hanswered : IdleSafe { s with replies := rest } := { hs with }
    exact (hanswered.settle hb hplatform a).advance a.answer
  · exact hs
  · have htaken : IdleSafe { s with inbox := rest } := { hs with }
    exact exec_keeps_idleSafe (hseq.hostOnly m (by simp [hi])) hm htaken htable he

end Sys2Proof.Machine
end

section
/-! The frame writer's operations (41_frame_writer.md R84 to R97): what each answers and where it has no move, what the
transport's answer to its request does, and along which pairs the phase moves. -/

namespace Sys2Proof.Machine

/-! ### A request handed over and answered (R85, R86, R93 to R95) -/

theorem advance_res {E : Type} (a : Answer E) (s : State E) : (advance a s).res = s.res := by
  obtain ⟨-, h⟩ | ⟨-, -, h⟩ | ⟨-, h⟩ := advance_cases a s <;> rw [h]
  · rw [enterFetch_res]
  · rw [deliverDone_res]

/-- Without an answer the machine holds on the transport (R44, R100). -/
theorem step_awaiting {s : State} {bytes : List Byte} (hc : s.cfg.wf = true) (hr : s.req = some bytes)
    (ha : s.replies = []) : step s = .next s := by
  rw [step_outstanding hc hr, awaitAnswer_nil ha]

theorem Reply.answer_eq_ok {E : Type} {a : Reply E} : a.answer = .ok ↔ a = .ok := by
  cases a <;> simp [Reply.answer]

/-- What `Ok` to a colour frame does on both sides (R93). -/
theorem advance_settle_frame_ok {s : State} (hp : s.phase = .txc) (bytes : List Byte) (rest : List Reply) :
    advance .ok (settle bytes .ok { s with replies := rest }) =
      enterFetch { settle bytes .ok { s with replies := rest } with k := s.k + 1 } :=
  advance_txc_ok hp

/-- What the answer that ends a `WRITE` does on both sides (R94, R95). -/
theorem advance_settle_ends {s : State} {a : Reply} (hp : s.phase = .txr ∨ s.phase = .txc ∧ a.answer ≠ .ok)
    (bytes : List Byte) (rest : List Reply) :
    advance a.answer (settle bytes a { s with replies := rest }) =
      deliverDone a.answer (settle bytes a { s with replies := rest }) :=
  advance_done hp

/-- The answer `Ok` to a colour frame (R93). -/
theorem step_frame_ok {s : State} {bytes : List Byte} {rest : List Reply} (hc : s.cfg.wf = true) (hp : s.phase = .txc)
    (hr : s.req = some bytes) (ha : s.replies = .ok :: rest) :
    step s = .next (enterFetch { settle bytes .ok { s with replies := rest } with k := s.k + 1 }) := by
  rw [step_answer hc hr ha, Reply.answer, advance_settle_frame_ok hp]

/-- The answer that ends a `WRITE`: any to the reset frame, `Err(e)` to a colour frame (R94, R95). -/
theorem step_ends {s : State} {bytes : List Byte} {a : Reply} {rest : List Reply} (hc : s.cfg.wf = true)
    (hp : s.phase = .txr ∨ s.phase = .txc ∧ a.answer ≠ .ok) (hr : s.req = some bytes) (ha : s.replies = a :: rest) :
    step s = .next (deliverDone a.answer (settle bytes a { s with replies := rest })) := by
  rw [step_answer hc hr ha, advance_settle_ends hp]

/-- The sequencer's request answered: recorded, returned, and on `Err(e)` raised as `TransportFailure(e)`. -/
theorem exists_step_answered {s : State} {bytes : List Byte} {a : Reply} {rest : List Reply} (hc : s.cfg.wf = true)
    (hp : s.phase = .txc ∨ s.phase = .txr) (hr : s.req = some bytes) (ha : s.replies = a :: rest) :
    ∃ t : State, step s = .next t ∧ t.trace = s.trace ++ [⟨bytes, a.answer⟩] ∧ t.res = .answer a.answer ∧
      ∀ e sent, a = .err e sent → t.phase = .idle ∧ t.hostOut = s.hostOut ++ [.done (.err e)] := by
  refine ⟨_, step_answer hc hr ha, ?_, ?_, ?_⟩
  · rw [advance_trace, settle_trace]
  · rw [advance_res, settle_res]
  · rintro e sent rfl
    have hfail := advance_err (s := settle bytes (.err e sent) { s with replies := rest }) (e := e) hp
    rw [Reply.answer, hfail]
    exact ⟨rfl, rfl⟩

/-- Reading a list byte by byte gives it back: `[BUF[0], ..., BUF[3*W-1]]` is `BUF` (R85). -/
theorem map_getD_range_length {α : Type} (xs : List α) (d : α) :
    ((List.range xs.length).map fun i => xs.getD i d) = xs := by
  refine List.ext_getElem (by simp) fun i _ hi => ?_
  rw [List.getElem_map, List.getElem_range, List.getD_eq_getElem _ _ hi]

theorem waveform_length (bytes : List Byte) : (waveform bytes).length = 8 * bytes.length := by
  induction bytes with
  | nil => rfl
  | cons x xs ih =>
    rw [waveform, List.flatMap_cons, List.length_append, ← waveform, ih, List.length_cons, Nat.mul_succ, Nat.add_comm]
    rfl

/-! ### The phase (R17, R97) -/

/-- The table of R97. -/
def phaseTable : List (Phase × Phase) :=
  [(.idle, .fetch), (.fetch, .txc), (.fetch, .txr), (.txc, .fetch), (.txc, .idle), (.txr, .idle)]

/-- The phase of `t` is that of `s`, or the table leads to it. -/
def PhaseMoves (s t : State) : Prop := t.phase = s.phase ∨ (s.phase, t.phase) ∈ phaseTable

theorem PhaseMoves.along (p q : Phase) {s t : State} (hp : s.phase = p) (hq : t.phase = q)
    (h : (p, q) ∈ phaseTable) : PhaseMoves s t := by
  subst hp hq
  exact .inr h

/-- Of the operations only `START` and the sequencer's requests move the phase. -/
theorem exec_phaseMoves {i : Instr} {s t : State} (h : exec i s = .next t) : PhaseMoves s t := by
  cases i with
  | sym _ | encn _ | encb _ | row _ | tbuild | lookup _ | decode _ | pack _ | shift _ =>
    cases h
    exact .inl rfl
  | txwrite bytes =>
    obtain ⟨-, rfl⟩ := execTxwrite_eq_next.1 h
    exact .inl rfl
  | write colors ended =>
    obtain ⟨hp, rfl⟩ := execWrite_eq_next.1 h
    exact .along .idle .fetch hp rfl (by decide)
  | emitc =>
    obtain ⟨hp, -, rfl⟩ := execEmitc_eq_next.1 h
    exact .along .fetch .txc hp rfl (by decide)
  | tokenColor c =>
    obtain ⟨hp, -, rfl⟩ := execTokenColor_eq_next.1 h
    exact .along .fetch .txc hp rfl (by decide)
  | emitr =>
    obtain ⟨hp, -, rfl⟩ := execEmitr_eq_next.1 h
    exact .along .fetch .txr hp rfl (by decide)
  | tokenEnd =>
    obtain ⟨hp, -, rfl⟩ := execTokenEnd_eq_next.1 h
    exact .along .fetch .txr hp rfl (by decide)

/-- An answer leads out of `TXC` and `TXR` only. -/
theorem advance_phaseMoves (a : Answer) (s : State) : PhaseMoves s (advance a s) := by
  obtain ⟨-, h⟩ | ⟨hp, -, h⟩ | ⟨hp | ⟨hp, -⟩, h⟩ := advance_cases a s <;> rw [h]
  · exact .inl rfl
  · exact .along .txc .fetch hp rfl (by decide)
  · exact .along .txr .idle hp rfl (by decide)
  · exact .along .txc .idle hp rfl (by decide)

/-! ### The obligations -/

/-- Settles O20: the offsets `W` and `2 * W` are the lengths of the rows before. -/
theorem packWritesTheWholeBuffer : Obligations.PackWritesTheWholeBuffer := by
  intro c s
  have hpack : exec (.pack c) s =
      .next { s with buf := row s.cfg c.g ++ row s.cfg c.r ++ row s.cfg c.b } := by
    rw [← specFrame, ← frame_eq_specFrame]
    rfl
  refine ⟨_, _, _, exec_lookup c.g s, exec_lookup c.r s, exec_lookup c.b s, hpack, specFrame_length s.cfg c,
    fun j hj => ⟨?_, ?_, ?_⟩⟩
  · rw [List.append_assoc, List.getElem?_append_left (by simpa using hj)]
  · rw [List.append_assoc, List.getElem?_append_right (by simp), row_length, Nat.add_sub_cancel_left,
      List.getElem?_append_left (by simpa using hj)]
  · rw [List.getElem?_append_right (by simp; omega), List.length_append, row_length, row_length, ← Nat.two_mul,
      Nat.add_sub_cancel_left]

/-- Settles O21: `BUF` is read whole, and its request is answered as any of the sequencer's. -/
theorem emitcSendsTheBuffer : Obligations.EmitcSendsTheBuffer := by
  intro s hp hr hlen
  refine ⟨_, execEmitc_eq_next.2 ⟨hp, hr, rfl⟩, ?_, fun hc ha => step_awaiting hc rfl ha,
    fun a rest hc ha => exists_step_answered hc (.inl rfl) rfl ha⟩
  rw [← hlen, map_getD_range_length]

/-- Settles O22: eight levels per zero byte turn the inequality of R8 into 300 microseconds. -/
theorem emitrSendsTheResetFrame : Obligations.EmitrSendsTheResetFrame := by
  intro s hp hr
  refine ⟨_, execEmitr_eq_next.2 ⟨hp, hr, rfl⟩, rfl, fun hc => ?_, fun hc ha => step_awaiting hc rfl ha,
    fun a rest hc ha => exists_step_answered hc (.inr rfl) rfl ha⟩
  obtain ⟨-, -, hceiling⟩ := (Cfg.wf_iff s.cfg).1 hc
  rw [waveform_length, List.length_replicate]
  omega

/-- Settles O33: an operation moves the phase out of `IDLE` and `FETCH`, an answer out of `TXC` and `TXR`; and what lets
a colour token pass is the phase and the free transport, whatever the colour. -/
theorem phaseMovesOnlyAlongTheTable : Obligations.PhaseMovesOnlyAlongTheTable := by
  refine ⟨fun s t h => ?_, fun s t c d h => ?_⟩
  · obtain ⟨bytes, a, rest, -, -, rfl⟩ | rfl | ⟨m, rest, i, -, -, -, he⟩ := step_next_cases h
    · exact advance_phaseMoves a.answer (settle bytes a { s with replies := rest })
    · exact .inl rfl
    · exact exec_phaseMoves (s := { s with inbox := rest }) he
  · obtain ⟨hp, hr, rfl⟩ := execTokenColor_eq_next.1 h
    exact ⟨_, execTokenColor_eq_next.2 ⟨hp, hr, rfl⟩, rfl⟩

/-- Settles O34: one step without the awaited input is a hold, so any number of steps is. -/
theorem holdsUntilTheAwaitedInput : Obligations.HoldsUntilTheAwaitedInput := by
  rintro s n hc (⟨⟨bytes, hr⟩, ha⟩ | ⟨hr, hi⟩)
  · exact runFor_of_step_self (step_awaiting hc hr ha) n
  · exact runFor_of_step_self (step_hold hc hr hi) n

/-- Settles O23: `START` is all that `WRITE` does in `IDLE`. -/
theorem writeStartsInIdle : Obligations.WriteStartsInIdle :=
  fun _ _ _ hp => execWrite_eq_next.2 ⟨hp, rfl⟩

/-- Settles O24: `WRITE` is `START`, which has no move there. -/
theorem writeOutsideIdleHasNoMove : Obligations.WriteOutsideIdleHasNoMove :=
  fun _ _ _ hp => execWrite_of_ne_idle hp

/-- Settles O25: the frame that `PACK` builds by table reads is the three rows. -/
theorem colourTokenPacksAndIssues : Obligations.ColourTokenPacksAndIssues := by
  intro c s hp hr
  rw [← specFrame, ← frame_eq_specFrame]
  exact execTokenColor_eq_next.2 ⟨hp, hr, rfl⟩

/-- Settles O26: `END` only issues, whatever `CIN` and `BUF` hold. -/
theorem endTokenIssuesTheResetFrame : Obligations.EndTokenIssuesTheResetFrame :=
  fun _ hp hr => execTokenEnd_eq_next.2 ⟨hp, hr, rfl⟩

/-- Settles O27: all four issue through `issueInFetch`; `PACK` before it leaves the phase. -/
theorem noRequestOutsideFetch : Obligations.NoRequestOutsideFetch :=
  fun _ _ hp => ⟨issueInFetch_of_ne_fetch hp, issueInFetch_of_ne_fetch hp, issueInFetch_of_ne_fetch hp,
    issueInFetch_of_ne_fetch hp⟩

/-- Settles O29, by the sequencer's side of `Ok` in `TXC`: `K` counted and the next element asked for. -/
theorem txcOkAsksForTheNextColour : Obligations.TxcOkAsksForTheNextColour :=
  fun _ _ hc hp hr ha => ⟨_, step_frame_ok hc hp hr ha, rfl, rfl, rfl, rfl, rfl⟩

/-- Settles O30: an `Err(e)` in `TXC` ends the `WRITE`. -/
theorem txcErrAborts : Obligations.TxcErrAborts := by
  intro s e sent rest hc hp hr ha
  have hfailed : (Reply.err e sent).answer ≠ .ok := nofun
  exact ⟨_, step_ends hc (.inr ⟨hp, hfailed⟩) hr ha, rfl, rfl, rfl, rfl, rfl⟩

/-- Settles O31: in `TXR` either answer ends the `WRITE`. -/
theorem txrAnswerEndsTheWrite : Obligations.TxrAnswerEndsTheWrite :=
  fun _ _ _ hc hp hr ha => ⟨_, step_ends hc (.inl hp) hr ha, rfl, rfl, rfl, rfl, rfl⟩

/-- Settles O41, operation by operation, from all that each can answer. -/
theorem frameWriterOperationsFrame : Obligations.FrameWriterOperationsFrame := by
  intro s t c colors ended bytes
  refine ⟨fun h => ?_, fun h => ?_, fun h => ?_, fun h => ?_, fun h => ?_, fun h => ?_, fun h => ?_⟩
  · cases h
    rfl
  · obtain ⟨-, -, rfl⟩ := execEmitc_eq_next.1 h
    rfl
  · obtain ⟨-, -, rfl⟩ := execEmitr_eq_next.1 h
    rfl
  · obtain ⟨-, -, rfl⟩ := execTokenColor_eq_next.1 h
    rfl
  · obtain ⟨-, -, rfl⟩ := execTokenEnd_eq_next.1 h
    rfl
  · obtain ⟨-, rfl⟩ := execTxwrite_eq_next.1 h
    rfl
  · obtain ⟨-, rfl⟩ := execWrite_eq_next.1 h
    rfl

/-- Settles O44: the message at the head decodes, so `step` runs its operation. -/
theorem stepRunsTheDecodedOperation : Obligations.StepRunsTheDecodedOperation :=
  fun _ _ _ _ hc hr hi hm => step_take hc hr hi hm

end Sys2Proof.Machine
end

section
/-! The invariants of the sequencer under host events (41_frame_writer.md R88 to R97): the steps it can take, what each
keeps of the pending request and `BUF`, and the transcript of a `WRITE` as it grows. -/

namespace Sys2Proof.Machine

/-! ### The steps of the sequencer -/

/-- The sequencer's steps R89 to R95, and the hold. -/
inductive SequencerStep (s : State) : State → Prop where
  | hold : SequencerStep s s
  | start (colors : List Color) (ended : Bool) (rest : List Msg) (hp : s.phase = .idle) (hr : s.req = none) :
      SequencerStep s { start s with inbox := hostTokens colors ended ++ rest }
  | colour (c : Color) (rest : List Msg) (hp : s.phase = .fetch) :
      SequencerStep s
        { s with inbox := rest, cin := c, buf := frame s.cfg c, req := some (frame s.cfg c), phase := .txc }
  | close (rest : List Msg) (hp : s.phase = .fetch) :
      SequencerStep s { s with inbox := rest, req := some (zeros s.cfg.nReset), phase := .txr }
  | frameOk (rest : List Reply) (hp : s.phase = .txc) :
      SequencerStep s (enterFetch { settle s.buf .ok { s with replies := rest } with k := s.k + 1 })
  | frameFailed (a : Reply) (rest : List Reply) (hp : s.phase = .txc) (ha : a.answer ≠ .ok) :
      SequencerStep s (deliverDone a.answer (settle s.buf a { s with replies := rest }))
  | resetAnswered (a : Reply) (rest : List Reply) (hp : s.phase = .txr) :
      SequencerStep s (deliverDone a.answer (settle (zeros s.cfg.nReset) a { s with replies := rest }))

/-- An outstanding request is the colour frame of `TXC` or the reset frame of `TXR` (R88). -/
theorem Sequenced.outstanding {s : State} (h : Sequenced s) {bytes : List Byte} (hr : s.req = some bytes) :
    (s.phase = .txc ∧ bytes = s.buf) ∨ (s.phase = .txr ∧ bytes = zeros s.cfg.nReset) := by
  have hpending := h.pending
  rw [PendingIsPhase, hr] at hpending
  cases hp : s.phase <;> simp only [hp, Option.some.injEq] at hpending
  · cases hpending
  · cases hpending
  · exact .inl ⟨rfl, hpending⟩
  · exact .inr ⟨rfl, hpending⟩

theorem answer_sequencerStep {s : State} (hs : Sequenced s) {bytes : List Byte} (hr : s.req = some bytes) (a : Reply)
    (rest : List Reply) : SequencerStep s (advance a.answer (settle bytes a { s with replies := rest })) := by
  obtain ⟨hp, rfl⟩ | ⟨hp, rfl⟩ := hs.outstanding hr
  · by_cases ha : a.answer = .ok
    · obtain rfl := Reply.answer_eq_ok.1 ha
      rw [ha, advance_settle_frame_ok hp]
      exact .frameOk rest hp
    · rw [advance_settle_ends (.inr ⟨hp, ha⟩)]
      exact .frameFailed a rest hp ha
  · rw [advance_settle_ends (.inl hp)]
    exact .resetAnswered a rest hp

/-- Under host events every step is one of the sequencer's. -/
theorem Sequenced.sequencerStep {s t : State} (hs : Sequenced s) (h : step s = .next t) : SequencerStep s t := by
  obtain ⟨bytes, a, rest, hr, -, rfl⟩ | rfl | ⟨m, rest, i, hr, hi, hm, he⟩ := step_next_cases h
  · exact answer_sequencerStep hs hr a rest
  · exact .hold
  · obtain hport | hport := hs.hostOnly m (by simp [hi])
    · obtain ⟨colors, ended, rfl⟩ := fetch_write hport hm
      obtain ⟨hp, rfl⟩ := execWrite_eq_next.1 he
      exact .start colors ended rest hp hr
    · obtain ⟨c, rfl⟩ | rfl := fetch_token hport hm
      · obtain ⟨hp, -, rfl⟩ := execTokenColor_eq_next.1 he
        exact .colour c rest hp
      · obtain ⟨hp, -, rfl⟩ := execTokenEnd_eq_next.1 he
        exact .close rest hp

/-! ### The pending request and `BUF` (R15, R88) -/

theorem SequencerStep.bufSized {s t : State} (h : SequencerStep s t) (hs : s.buf.length = 3 * s.cfg.w) :
    t.buf.length = 3 * t.cfg.w := by
  cases h with
  | hold | start | close | frameOk | frameFailed | resetAnswered => exact hs
  | colour c => exact frame_length s.cfg c

theorem SequencerStep.pending {s t : State} (h : SequencerStep s t) (hs : PendingIsPhase s) : PendingIsPhase t := by
  cases h with
  | hold => exact hs
  | start _ _ _ _ hr => exact hr
  | colour | close | frameOk | frameFailed | resetAnswered => rfl

/-- `BUF` and the reset frame have the two sizes of R40. -/
theorem Sequenced.req_wf {s : State} (h : Sequenced s) {bytes : List Byte} (hr : s.req = some bytes) :
    (Instr.txwrite bytes).wf s.cfg = true := by
  obtain rfl | rfl := h.req_cases hr
  · simp [Instr.wf, h.bufSized]
  · simp [Instr.wf]

/-! ### The transcript (R24, R90, R96, R101, R103, R104) -/

theorem Transcript.streaming {s : State} (h : Transcript s) (hp : s.phase ≠ .idle) : Streaming s := by
  unfold Transcript at h
  split at h
  · exact absurd ‹_› hp
  · exact h
  · exact h
  · exact h

/-- A colour frame answered `Ok` is counted and followed by `NEXT` (R93). -/
theorem Streaming.frameOk {s : State} (h : Streaming s) {bytes : List Byte} (hlen : bytes.length = 3 * s.cfg.w) :
    Streaming (enterFetch { settle bytes .ok s with k := s.k + 1 }) := by
  obtain ⟨hframes, hk, hout⟩ := h
  refine ⟨List.forall_mem_append.2 ⟨hframes, List.forall_mem_singleton.2 ⟨hlen, rfl⟩⟩, ?_, ?_⟩
  · simp [hk]
  · simp [hout, List.replicate_succ']

/-- The answer that ends the `WRITE` is recorded last and is the one `Done` carries (R94 to R96). -/
theorem Streaming.ended {s : State} (h : Streaming s) {bytes : List Byte} {a : Reply}
    (hlast : TxEntry.mayEnd s.cfg ⟨bytes, a.answer⟩) : Ended (deliverDone a.answer (settle bytes a s)) := by
  obtain ⟨hframes, -, hout⟩ := h
  exact ⟨s.trace, ⟨bytes, a.answer⟩, rfl, hframes, hlast, congrArg (· ++ _) hout⟩

theorem SequencerStep.transcript {s t : State} (h : SequencerStep s t) (hbuf : s.buf.length = 3 * s.cfg.w)
    (hs : Transcript s) : Transcript t := by
  cases h with
  | hold => exact hs
  | start => exact ⟨List.forall_mem_nil _, rfl, rfl⟩
  | colour c rest hp => exact hs.streaming (by simp [hp])
  | close rest hp => exact hs.streaming (by simp [hp])
  | frameOk rest hp =>
    have hstreaming : Streaming { s with replies := rest } := hs.streaming (by simp [hp])
    exact hstreaming.frameOk hbuf
  | frameFailed a rest hp ha =>
    have hstreaming : Streaming { s with replies := rest } := hs.streaming (by simp [hp])
    exact .inr (hstreaming.ended (.inr ⟨hbuf, ha⟩))
  | resetAnswered a rest hp =>
    have hstreaming : Streaming { s with replies := rest } := hs.streaming (by simp [hp])
    exact .inr (hstreaming.ended (.inl rfl))

/-! ### The obligations -/

/-- Settles O47, step by step of the sequencer: each that moves the phase sets or clears the request with it. -/
theorem stepKeepsSequenced : Obligations.StepKeepsSequenced := by
  intro s t hs h
  have hstep := hs.sequencerStep h
  have ht : Sequenced t := ⟨step_keeps_hostOnly hs.hostOnly h, hstep.bufSized hs.bufSized, hstep.pending hs.pending⟩
  exact ⟨ht, fun bytes => ht.req_wf⟩

/-- Settles O49: `START` begins the transcript, `Ok` in `TXC` extends it, the answers that end the `WRITE` close it. -/
theorem stepKeepsTranscript : Obligations.StepKeepsTranscript :=
  fun _ _ hs htranscript h => (hs.sequencerStep h).transcript hs.bufSized htranscript

end Sys2Proof.Machine
end

section
/-! Whole runs of a `WRITE` (41_frame_writer.md R98 to R105): from `START`, frame by frame, to the answer that ends it.
What the ghosts hold after the frames of some colours is one predicate, which every step of a run carries on. -/

namespace Sys2Proof.Machine

/-! ### Runs -/

/-- Some number of steps leads from `s` to `t`. -/
def Reaches (s t : State) : Prop := ∃ n, runFor n s = .next t

theorem runFor_succ_of_next {n : Nat} {s t : State} (h : step s = .next t) : runFor (n + 1) s = runFor n t := by
  simp only [runFor, h]

theorem Reaches.refl (s : State) : Reaches s s := ⟨0, rfl⟩

theorem Reaches.head {s t u : State} (h : step s = .next t) (htu : Reaches t u) : Reaches s u := by
  obtain ⟨n, hn⟩ := htu
  exact ⟨n + 1, (runFor_succ_of_next h).trans hn⟩

theorem Reaches.single {s t : State} (h : step s = .next t) : Reaches s t := (Reaches.refl t).head h

/-! ### The steps that take a host event (R89, R91, R92) -/

theorem step_start {s : State} {colors : List Color} {ended : Bool} {rest : List Msg} (hc : s.cfg.wf = true)
    (hp : s.phase = .idle) (hr : s.req = none) (hi : s.inbox = ⟨.write, encode (.write colors ended)⟩ :: rest) :
    step s = .next { start s with inbox := hostTokens colors ended ++ rest } := by
  rw [step_take hc hr hi (decodeInvertsEncode (.write colors ended))]
  exact execWrite_eq_next.2 ⟨hp, rfl⟩

theorem step_colour {s : State} {col : Color} {rest : List Msg} (hc : s.cfg.wf = true) (hp : s.phase = .fetch)
    (hr : s.req = none) (hi : s.inbox = colorMsg col :: rest) :
    step s = .next
      { s with inbox := rest, cin := col, buf := frame s.cfg col, req := some (frame s.cfg col), phase := .txc } := by
  rw [step_take hc hr hi (decodeInvertsEncode (.tokenColor col))]
  exact execTokenColor_eq_next.2 ⟨hp, hr, rfl⟩

theorem step_close {s : State} {rest : List Msg} (hc : s.cfg.wf = true) (hp : s.phase = .fetch) (hr : s.req = none)
    (hi : s.inbox = ⟨.token, encode .tokenEnd⟩ :: rest) :
    step s = .next { s with inbox := rest, req := some (zeros s.cfg.nReset), phase := .txr } := by
  rw [step_take hc hr hi (decodeInvertsEncode .tokenEnd)]
  exact execTokenEnd_eq_next.2 ⟨hp, hr, rfl⟩

/-! ### The ghosts of a `WRITE` (R22 to R24, R104) -/

/-- The entry of `TRACE` of a colour's frame answered `Ok`. -/
def okEntry (c : Cfg) (col : Color) : TxEntry := ⟨specFrame c col, .ok⟩

/-- What the ghosts hold in a `WRITE` that has sent the frames of `colors`, each answered `Ok`. -/
structure FramesSent (c : Cfg) (colors : List Color) (s : State) : Prop where
  cfg     : s.cfg = c
  trace   : s.trace = colors.map (okEntry c)
  wire    : s.wire = colors.flatMap (specFrame c)
  k       : s.k = colors.length
  hostOut : s.hostOut = List.replicate (colors.length + 1) .next

/-- The frames of `colors` are sent, and the machine waits for the host's next element (R90). -/
structure AtFetch (c : Cfg) (colors : List Color) (s : State) : Prop extends FramesSent c colors s where
  phase : s.phase = .fetch
  req   : s.req = none

/-- The frames of `colors` are sent, and the machine waits for the answer to the frame of `col` (R91). -/
structure InFrame (c : Cfg) (colors : List Color) (col : Color) (s : State) : Prop extends FramesSent c colors s where
  phase : s.phase = .txc
  req   : s.req = some (specFrame c col)

/-- The frames of `colors` are sent, and the machine waits for the answer to the reset frame (R92). -/
structure InReset (c : Cfg) (colors : List Color) (s : State) : Prop extends FramesSent c colors s where
  phase : s.phase = .txr
  req   : s.req = some (zeros c.nReset)

/-- The `WRITE` has ended: after the frames of `colors`, the answer `a` to the request `last`. -/
structure WriteEnded (c : Cfg) (colors : List Color) (last : List Byte) (a : Reply) (s : State) : Prop where
  phase   : s.phase = .idle
  req     : s.req = none
  trace   : s.trace = colors.map (okEntry c) ++ [⟨last, a.answer⟩]
  wire    : s.wire = colors.flatMap (specFrame c) ++ a.transmitted last
  k       : s.k = colors.length
  hostOut : s.hostOut = List.replicate (colors.length + 1) .next ++ [.done a.answer]

/-- The last request is recorded after the frames, and its answer is the one `Done` delivers. -/
theorem FramesSent.deliverDone {c : Cfg} {colors : List Color} {s : State} (h : FramesSent c colors s)
    (last : List Byte) (a : Reply) : WriteEnded c colors last a (deliverDone a.answer (settle last a s)) where
  phase := rfl
  req := rfl
  trace := congrArg (· ++ _) h.trace
  wire := congrArg (· ++ _) h.wire
  k := h.k
  hostOut := congrArg (· ++ _) h.hostOut

theorem WriteEnded.trace_length {c : Cfg} {colors : List Color} {last : List Byte} {a : Reply} {s : State}
    (h : WriteEnded c colors last a s) : s.trace.length = colors.length + 1 := by
  rw [h.trace, List.length_append, List.length_map, List.length_singleton]

/-! ### One step of a `WRITE` (R89, R91 to R95)

Each lemma says what the step answers, and what is left of the inbox and of the transport's answers. -/

theorem exists_step_start {s : State} {colors : List Color} {ended : Bool} {rest : List Msg} (hc : s.cfg.wf = true)
    (hp : s.phase = .idle) (hr : s.req = none) (hi : s.inbox = ⟨.write, encode (.write colors ended)⟩ :: rest) :
    ∃ t, step s = .next t ∧ AtFetch s.cfg [] t ∧ t.inbox = hostTokens colors ended ++ rest ∧ t.replies = s.replies :=
  ⟨_, step_start hc hp hr hi, ⟨⟨rfl, rfl, rfl, rfl, rfl⟩, rfl, hr⟩, rfl, rfl⟩

section Steps

variable {c : Cfg} {colors : List Color} {s : State}

theorem AtFetch.exists_step_colour {col : Color} {rest : List Msg} (h : AtFetch c colors s) (hc : c.wf = true)
    (hi : s.inbox = colorMsg col :: rest) :
    ∃ t, step s = .next t ∧ InFrame c colors col t ∧ t.inbox = rest ∧ t.replies = s.replies := by
  obtain ⟨⟨rfl, htrace, hwire, hk, hout⟩, hp, hr⟩ := h
  exact ⟨_, step_colour hc hp hr hi,
    ⟨⟨rfl, htrace, hwire, hk, hout⟩, rfl, congrArg some (frame_eq_specFrame s.cfg col)⟩, rfl, rfl⟩

theorem AtFetch.exists_step_close {rest : List Msg} (h : AtFetch c colors s) (hc : c.wf = true)
    (hi : s.inbox = ⟨.token, encode .tokenEnd⟩ :: rest) :
    ∃ t, step s = .next t ∧ InReset c colors t ∧ t.inbox = rest ∧ t.replies = s.replies := by
  obtain ⟨⟨rfl, htrace, hwire, hk, hout⟩, hp, hr⟩ := h
  exact ⟨_, step_close hc hp hr hi, ⟨⟨rfl, htrace, hwire, hk, hout⟩, rfl, rfl⟩, rfl, rfl⟩

theorem InFrame.exists_step_ok {col : Color} {later : List Reply} (h : InFrame c colors col s) (hc : c.wf = true)
    (ha : s.replies = .ok :: later) :
    ∃ t, step s = .next t ∧ AtFetch c (colors ++ [col]) t ∧ t.inbox = s.inbox ∧ t.replies = later := by
  obtain ⟨⟨rfl, htrace, hwire, hk, hout⟩, hp, hr⟩ := h
  refine ⟨_, step_frame_ok hc hp hr ha, ⟨⟨rfl, ?_, ?_, ?_, ?_⟩, rfl, rfl⟩, rfl, rfl⟩
  · simp [htrace, okEntry, Reply.answer]
  · simp [hwire, Reply.transmitted]
  · simp [hk]
  · simp [hout, List.replicate_succ']

theorem InFrame.exists_step_failed {col : Color} {a : Reply} {later : List Reply} (h : InFrame c colors col s)
    (hc : c.wf = true) (hfail : a.answer ≠ .ok) (ha : s.replies = a :: later) :
    ∃ t, step s = .next t ∧ WriteEnded c colors (specFrame c col) a t ∧ t.inbox = s.inbox.dropWhile Msg.isToken ∧
      t.replies = later := by
  have hsent : FramesSent c colors { s with replies := later } := { h.toFramesSent with }
  exact ⟨_, step_ends (h.cfg ▸ hc) (.inr ⟨h.phase, hfail⟩) h.req ha, hsent.deliverDone _ a, rfl, rfl⟩

theorem InReset.exists_step_answered {a : Reply} {later : List Reply} (h : InReset c colors s) (hc : c.wf = true)
    (ha : s.replies = a :: later) :
    ∃ t, step s = .next t ∧ WriteEnded c colors (zeros c.nReset) a t ∧ t.inbox = s.inbox.dropWhile Msg.isToken ∧
      t.replies = later := by
  have hsent : FramesSent c colors { s with replies := later } := { h.toFramesSent with }
  exact ⟨_, step_ends (h.cfg ▸ hc) (.inl h.phase) h.req ha, hsent.deliverDone _ a, rfl, rfl⟩

end Steps

/-! ### Which request is the last one (R101, R103) -/

/-- Of a `WRITE` of the colours, request `j` is the last one made and `a` is its answer: the reset frame after every frame
was answered `Ok`, or the first colour frame that failed. -/
inductive LastAnswer : List Color → List Reply → Nat → Reply → Prop where
  | reset (a : Reply) (later : List Reply) : LastAnswer [] (a :: later) 0 a
  | failed (col : Color) (colors : List Color) {a : Reply} (later : List Reply) (ha : a.answer ≠ .ok) :
      LastAnswer (col :: colors) (a :: later) 0 a
  | sent (col : Color) {colors : List Color} {later : List Reply} {j : Nat} {a : Reply}
      (h : LastAnswer colors later j a) : LastAnswer (col :: colors) (.ok :: later) (j + 1) a

/-- Request `j` of a `WRITE` of the colours: the frame of colour `j`, or the reset frame after them all. -/
def requestAt (c : Cfg) (colors : List Color) (j : Nat) : List Byte :=
  match colors[j]? with
  | some col => specFrame c col
  | none => zeros c.nReset

theorem LastAnswer.of_getElem? : ∀ {colors : List Color} {replies : List Reply} {j : Nat} {a : Reply},
    j ≤ colors.length → (∀ i, i < j → replies[i]? = some .ok) → replies[j]? = some a →
    (j < colors.length → a.answer ≠ .ok) → LastAnswer colors replies j a
  | colors, [], j, a, _, _, ha, _ => by simp at ha
  | [], r :: later, 0, a, _, _, ha, _ => by
    obtain rfl : r = a := by simpa using ha
    exact .reset r later
  | col :: colors, r :: later, 0, a, _, _, ha, hend => by
    obtain rfl : r = a := by simpa using ha
    exact .failed col colors later (hend (by simp))
  | col :: colors, r :: later, j + 1, a, hj, hok, ha, hend => by
    obtain rfl : r = .ok := by simpa using hok 0 (by omega)
    exact .sent col (.of_getElem? (by simpa using hj) (fun i hi => hok (i + 1) (by omega)) ha
      fun hlt => hend (by simpa using hlt))

theorem exists_lastAnswer : ∀ {colors : List Color} {replies : List Reply}, colors.length < replies.length →
    ∃ j a, LastAnswer colors replies j a
  | [], r :: later, _ => ⟨0, r, .reset r later⟩
  | col :: colors, r :: later, h => by
    by_cases hr : r.answer = .ok
    · obtain rfl := Reply.answer_eq_ok.1 hr
      obtain ⟨j, a, hlast⟩ := exists_lastAnswer (Nat.lt_of_succ_lt_succ h)
      exact ⟨j + 1, a, .sent col hlast⟩
    · exact ⟨0, r, .failed col colors later hr⟩

theorem LastAnswer.le_length {colors : List Color} {replies : List Reply} {j : Nat} {a : Reply}
    (h : LastAnswer colors replies j a) : j ≤ colors.length := by
  induction h with
  | reset | failed => exact Nat.zero_le _
  | sent _ _ ih => exact Nat.succ_le_succ ih

/-! ### `WRITE_SPEC` (R98) -/

theorem writeSpec_succ {E : Type} (c : Cfg) (ans : Nat → Answer E) (colors : List Color) (i : Nat) :
    writeSpec c ans colors (i + 1) = writeSpec c (fun n => ans (n + 1)) colors i := by
  induction colors generalizing i with
  | nil => rfl
  | cons col colors ih => simp only [writeSpec, ih]

/-- `WRITE_SPEC` makes the requests up to the last one and returns its answer. -/
theorem LastAnswer.writeSpec_eq {colors : List Color} {replies : List Reply} {j : Nat} {a : Reply}
    (h : LastAnswer colors replies j a) (c : Cfg) :
    writeSpec c (answerAt replies) colors 0 =
      ((colors.take j).map (okEntry c) ++ [⟨requestAt c colors j, a.answer⟩], a.answer) := by
  induction h with
  | reset a later => rfl
  | @failed col colors a later ha =>
    cases a with
    | ok => exact absurd rfl ha
    | err e sent => rfl
  | @sent col colors later j a h ih =>
    have hshift : (fun n => answerAt (Reply.ok :: later) (n + 1)) = answerAt later := rfl
    have hfirst : answerAt (Reply.ok :: later) 0 = .ok := rfl
    simp only [writeSpec, hfirst, writeSpec_succ, hshift, ih]
    rfl

/-! ### The whole run (R99, R103) -/

theorem hostTokens_dropWhile (colors : List Color) (ended : Bool) (rest : List Msg) :
    (hostTokens colors ended ++ rest).dropWhile Msg.isToken = rest.dropWhile Msg.isToken :=
  List.dropWhile_append_of_pos fun m hm => by simp [Msg.isToken, mem_hostTokens_port hm]

/-- From `FETCH`, the frames answered `Ok` go out one by one, and then the last request is answered. -/
theorem AtFetch.reaches_end {c : Cfg} {colors : List Color} {replies : List Reply} {j : Nat} {a : Reply}
    {rest : List Msg} (hlast : LastAnswer colors replies j a) (hc : c.wf = true) {before : List Color} {s : State}
    (h : AtFetch c before s) (hi : s.inbox = hostTokens colors true ++ rest) (ha : s.replies = replies) :
    ∃ t, Reaches s t ∧ WriteEnded c (before ++ colors.take j) (requestAt c colors j) a t ∧
      t.inbox = rest.dropWhile Msg.isToken ∧ t.replies = replies.drop (j + 1) := by
  induction hlast generalizing before s with
  | reset a later =>
    obtain ⟨u, hu, hreset, hui, hua⟩ := h.exists_step_close hc hi
    obtain ⟨t, ht, hended, hti, hta⟩ := hreset.exists_step_answered hc (hua.trans ha)
    refine ⟨t, .head hu (.single ht), ?_, ?_, hta⟩
    · rwa [List.take_nil, List.append_nil]
    · rw [hti, hui]
      rfl
  | failed col colors later hfail =>
    obtain ⟨u, hu, hframe, hui, hua⟩ := h.exists_step_colour hc hi
    obtain ⟨t, ht, hended, hti, hta⟩ := hframe.exists_step_failed hc hfail (hua.trans ha)
    refine ⟨t, .head hu (.single ht), ?_, ?_, hta⟩
    · rwa [List.take_zero, List.append_nil]
    · rw [hti, hui]
      exact hostTokens_dropWhile colors true rest
  | @sent col colors later j a hlast ih =>
    obtain ⟨u, hu, hframe, hui, hua⟩ := h.exists_step_colour hc hi
    obtain ⟨v, hv, hfetch, hvi, hva⟩ := hframe.exists_step_ok hc (hua.trans ha)
    obtain ⟨t, ht, hended, hti, hta⟩ := ih hfetch (hvi.trans hui) hva
    refine ⟨t, .head hu (.head hv ht), ?_, hti, hta⟩
    rw [List.take_succ_cons, List.append_cons]
    exact hended

/-- A `WRITE` of a finite sequence from an idle state runs to the answer of its last request. -/
theorem exists_writeEnded {s : State} {colors : List Color} {rest : List Msg} {j : Nat} {a : Reply}
    (hc : s.cfg.wf = true) (hp : s.phase = .idle) (hr : s.req = none)
    (hi : s.inbox = ⟨.write, encode (.write colors true)⟩ :: rest) (hlast : LastAnswer colors s.replies j a) :
    ∃ n t, runFor n s = .next t ∧ WriteEnded s.cfg (colors.take j) (requestAt s.cfg colors j) a t ∧
      t.inbox = rest.dropWhile Msg.isToken ∧ t.replies = s.replies.drop (j + 1) := by
  obtain ⟨u, hu, hfetch, hui, hua⟩ := exists_step_start hc hp hr hi
  obtain ⟨t, hut, hended, hti, hta⟩ := hfetch.reaches_end hlast hc hui hua
  obtain ⟨n, hn⟩ := hut.head hu
  exact ⟨n, t, hn, hended, hti, hta⟩

/-! ### When every answer is `Ok` (R101) -/

/-- An answer there that reads `Ok` is `Ok`. -/
theorem getElem?_of_answerAt_ok {replies : List Reply} {i : Nat} (hi : i < replies.length)
    (h : answerAt replies i = .ok) : replies[i]? = some .ok := by
  rw [answerAt, List.getElem?_eq_getElem hi] at h
  rw [List.getElem?_eq_getElem hi, Reply.answer_eq_ok.1 h]

theorem requestAt_length (c : Cfg) (colors : List Color) : requestAt c colors colors.length = zeros c.nReset := by
  rw [requestAt, List.getElem?_eq_none le_rfl]

/-- When every answer is `Ok` the last request is the reset frame, and all frames stand before it. -/
theorem exists_writeEnded_ok {s : State} {colors : List Color} {rest : List Msg} (hc : s.cfg.wf = true)
    (hp : s.phase = .idle) (hr : s.req = none) (hi : s.inbox = ⟨.write, encode (.write colors true)⟩ :: rest)
    (hlen : colors.length < s.replies.length) (hok : ∀ i, i ≤ colors.length → answerAt s.replies i = .ok) :
    ∃ n t, runFor n s = .next t ∧ WriteEnded s.cfg colors (zeros s.cfg.nReset) .ok t := by
  have hreplies (i : Nat) (hle : i ≤ colors.length) : s.replies[i]? = some .ok :=
    getElem?_of_answerAt_ok (hle.trans_lt hlen) (hok i hle)
  have hlast : LastAnswer colors s.replies colors.length .ok :=
    .of_getElem? le_rfl (fun i hlt => hreplies i hlt.le) (hreplies _ le_rfl) fun hlt => absurd hlt (lt_irrefl _)
  obtain ⟨n, t, hn, hended, -, -⟩ := exists_writeEnded hc hp hr hi hlast
  rw [List.take_length, requestAt_length] at hended
  exact ⟨n, t, hn, hended⟩

theorem length_flatMap_specFrame (c : Cfg) (colors : List Color) :
    (colors.flatMap (specFrame c)).length = 3 * c.w * colors.length := by
  induction colors with
  | nil => rfl
  | cons col colors ih =>
    rw [List.flatMap_cons, List.length_append, ih, specFrame_length, List.length_cons, Nat.mul_succ, Nat.add_comm]

/-! ### When a request fails (R103, R105) -/

/-- The first request that fails is the last one, and the frames answered `Ok` stand before it. -/
theorem exists_writeEnded_err {s : State} {colors : List Color} {rest : List Msg} {j sent : Nat} {e : TransportError}
    (hc : s.cfg.wf = true) (hp : s.phase = .idle) (hr : s.req = none)
    (hi : s.inbox = ⟨.write, encode (.write colors true)⟩ :: rest) (hj : j ≤ colors.length)
    (hok : ∀ i, i < j → s.replies[i]? = some .ok) (herr : s.replies[j]? = some (.err e sent)) :
    ∃ n t, runFor n s = .next t ∧ WriteEnded s.cfg (colors.take j) (requestAt s.cfg colors j) (.err e sent) t ∧
      t.replies = s.replies.drop (j + 1) := by
  have hlast : LastAnswer colors s.replies j (.err e sent) := .of_getElem? hj hok herr fun _ => nofun
  obtain ⟨n, t, hn, hended, -, hta⟩ := exists_writeEnded hc hp hr hi hlast
  exact ⟨n, t, hn, hended, hta⟩

/-! ### The obligations -/

/-- Settles O51: the machine and `WRITE_SPEC` both stop at the last request, the first to fail or the reset frame. -/
theorem writeAgreesWithItsSpecification : Obligations.WriteAgreesWithItsSpecification := by
  intro s colors rest hc hp hr hi hlen
  obtain ⟨j, a, hlast⟩ := exists_lastAnswer hlen
  obtain ⟨n, t, hn, hended, hti, hta⟩ := exists_writeEnded hc hp hr hi hlast
  have hentries : t.trace.length = j + 1 := by
    rw [hended.trace_length, List.length_take_of_le hlast.le_length]
  have hout : t.hostOut = List.replicate t.trace.length .next ++ [.done a.answer] := by
    rw [hended.hostOut, hended.trace_length]
  have hle : t.trace.length ≤ colors.length + 1 := hentries ▸ Nat.succ_le_succ hlast.le_length
  rw [hlast.writeSpec_eq]
  exact ⟨n, t, hn, hended.phase, hended.req, hended.trace, hout, hle, hentries ▸ hta, hti⟩

/-- Settles O52, by the run in which every answer is `Ok`. -/
theorem successfulWriteSendsEveryFrame : Obligations.SuccessfulWriteSendsEveryFrame := by
  intro s colors rest hc hp hr hi hlen hok
  obtain ⟨n, t, hn, hended⟩ := exists_writeEnded_ok hc hp hr hi hlen hok
  exact ⟨n, t, hn, hended.phase, hended.trace, hended.trace_length, zeros_length _,
    fun c _ => specFrame_length s.cfg c, hended.hostOut⟩

/-- Settles O53: all of each request answered `Ok` is on the wire. -/
theorem successfulWriteFillsTheWire : Obligations.SuccessfulWriteFillsTheWire := by
  intro s colors rest hc hp hr hi hlen hok
  obtain ⟨n, t, hn, hended⟩ := exists_writeEnded_ok hc hp hr hi hlen hok
  refine ⟨n, t, hn, hended.phase, hended.k, hended.wire, ?_⟩
  rw [hended.wire, List.length_append, length_flatMap_specFrame, Reply.transmitted, zeros_length]

/-- Settles O54: of the failed request, which is the last one, the first `sent` bytes are on the wire. -/
theorem failedWriteLeavesAPrefixOnTheWire : Obligations.FailedWriteLeavesAPrefixOnTheWire := by
  rintro s colors rest j sent e last hc hp hr hi hj hok herr rfl
  obtain ⟨n, t, hn, hended, -⟩ := exists_writeEnded_err hc hp hr hi hj hok herr
  exact ⟨n, t, hn, hended.phase, hended.wire⟩

/-- Settles O55: the failed request is the last entry, its error the result, and no answer after it is taken. -/
theorem firstFailureEndsTheWrite : Obligations.FirstFailureEndsTheWrite := by
  rintro s colors rest j sent e last hc hp hr hi hj hok herr rfl
  obtain ⟨n, t, hn, hended, hta⟩ := exists_writeEnded_err hc hp hr hi hj hok herr
  have hsent : (colors.take j).length = j := List.length_take_of_le hj
  have hentries := hended.trace_length
  have hout := hended.hostOut
  rw [hsent] at hentries hout
  exact ⟨n, t, hn, hended.phase, hended.req, hended.trace, hentries, hout, hta⟩

/-- Settles O56, by its three steps: `START`, `END`, and the answer to the reset frame. -/
theorem zeroLengthWriteIsOneResetFrame : Obligations.ZeroLengthWriteIsOneResetFrame := by
  intro s a replies rest hc hp hr hi ha
  have hstart := step_start hc hp hr hi
  have hclose := step_close (s := { start s with inbox := hostTokens [] true ++ rest }) hc rfl hr rfl
  have hanswer := step_ends (s := { start s with inbox := rest, req := some (zeros s.cfg.nReset), phase := .txr })
    hc (.inl rfl) rfl ha
  have hrun := (runFor_succ_of_next hstart).trans ((runFor_succ_of_next hclose).trans
    (runFor_succ_of_next (n := 0) hanswer))
  exact ⟨_, hrun, rfl, rfl, rfl, rfl, rfl, rfl, rfl⟩

end Sys2Proof.Machine
end

section
/-! A sequence that never ends (41_frame_writer.md R100 (c)): with inputs over time, a `WRITE` whose host gives colours
and whose transport answers `Ok` goes on from frame to frame. -/

namespace Sys2Proof.Machine

section Arrivals

variable {c : Cfg} {colors : List Color} {s : State}

/-- Inputs wait in the lists: what arrives moves nothing of the `WRITE`. -/
theorem AtFetch.arrive (h : AtFetch c colors s) (a : Arrivals) : AtFetch c colors (arrive a s) := { h with }

theorem InFrame.arrive {col : Color} (h : InFrame c colors col s) (a : Arrivals) :
    InFrame c colors col (arrive a s) := { h with }

end Arrivals

/-- `START` with inputs arriving before it. -/
theorem exists_stepIn_start {s : State} {colors : List Color} {ended : Bool} (a : Arrivals) (hc : s.cfg.wf = true)
    (hp : s.phase = .idle) (hr : s.req = none) (hi : s.inbox = [⟨.write, encode (.write colors ended)⟩]) :
    ∃ t, stepIn a s = .next t ∧ AtFetch s.cfg [] t ∧ t.inbox = hostTokens colors ended ++ a.msgs ∧
      t.replies = s.replies ++ a.replies :=
  exists_step_start (s := arrive a s) hc hp hr (by rw [arrive_inbox, hi]; rfl)

/-! ### Colours and `Ok` answers that come whenever they like -/

/-- Such a `WRITE` under way: colour frames only, each answered `Ok`, and nothing but colours and `Ok` waiting. -/
structure Endless (c : Cfg) (s : State) : Prop where
  progress : ∃ colors, AtFetch c colors s ∨ ∃ col, InFrame c colors col s
  inbox    : ∀ m ∈ s.inbox, ∃ col, m = colorMsg col
  replies  : ∀ a ∈ s.replies, a = .ok

theorem Endless.arrive {c : Cfg} {s : State} (h : Endless c s) {a : Arrivals}
    (hmsgs : ∀ m ∈ a.msgs, ∃ col, m = colorMsg col) (hreplies : ∀ r ∈ a.replies, r = .ok) :
    Endless c (arrive a s) where
  progress := by
    obtain ⟨colors, hfetch | ⟨col, hframe⟩⟩ := h.progress
    · exact ⟨colors, .inl (hfetch.arrive a)⟩
    · exact ⟨colors, .inr ⟨col, hframe.arrive a⟩⟩
  inbox := List.forall_mem_append.2 ⟨h.inbox, hmsgs⟩
  replies := List.forall_mem_append.2 ⟨h.replies, hreplies⟩

/-- One step takes the next colour or the next `Ok`, or holds while there is none. -/
theorem Endless.exists_step {c : Cfg} {s : State} (h : Endless c s) (hc : c.wf = true) :
    ∃ t, step s = .next t ∧ Endless c t := by
  obtain ⟨⟨colors, hfetch | ⟨col, hframe⟩⟩, hinbox, hreplies⟩ := h
  · cases hi : s.inbox with
    | nil => exact ⟨s, step_hold (hfetch.cfg ▸ hc) hfetch.req hi, ⟨colors, .inl hfetch⟩, hinbox, hreplies⟩
    | cons m rest =>
      rw [hi] at hinbox
      obtain ⟨⟨col, rfl⟩, hrest⟩ := List.forall_mem_cons.1 hinbox
      obtain ⟨t, ht, hframe, hti, hta⟩ := hfetch.exists_step_colour hc hi
      exact ⟨t, ht, ⟨colors, .inr ⟨col, hframe⟩⟩, hti ▸ hrest, hta ▸ hreplies⟩
  · cases ha : s.replies with
    | nil => exact ⟨s, step_awaiting (hframe.cfg ▸ hc) hframe.req ha, ⟨colors, .inr ⟨col, hframe⟩⟩, hinbox, hreplies⟩
    | cons r later =>
      rw [ha] at hreplies
      obtain ⟨rfl, hlater⟩ := List.forall_mem_cons.1 hreplies
      obtain ⟨t, ht, hfetch, hti, hta⟩ := hframe.exists_step_ok hc ha
      exact ⟨t, ht, ⟨_, .inl hfetch⟩, hti ▸ hinbox, hta ▸ hlater⟩

/-- `START` of a sequence that the host does not end. -/
theorem exists_stepIn_endless {s : State} {colors : List Color} {a : Arrivals} (hc : s.cfg.wf = true)
    (hp : s.phase = .idle) (hr : s.req = none) (hi : s.inbox = [⟨.write, encode (.write colors false)⟩])
    (hok : ∀ r ∈ s.replies, r = .ok) (hmsgs : ∀ m ∈ a.msgs, ∃ col, m = colorMsg col)
    (hreplies : ∀ r ∈ a.replies, r = .ok) : ∃ t, stepIn a s = .next t ∧ Endless s.cfg t := by
  obtain ⟨t, ht, hfetch, hti, hta⟩ := exists_stepIn_start a hc hp hr hi
  have htokens : ∀ m ∈ hostTokens colors false, ∃ col, m = colorMsg col := by
    intro m hm
    rw [hostTokens, List.mem_append] at hm
    obtain ⟨col, -, rfl⟩ := List.mem_map.1 (hm.resolve_right (by simp))
    exact ⟨col, rfl⟩
  exact ⟨t, ht, ⟨[], .inl hfetch⟩, hti ▸ List.forall_mem_append.2 ⟨htokens, hmsgs⟩,
    hta ▸ List.forall_mem_append.2 ⟨hok, hreplies⟩⟩

theorem FramesSent.mem_trace {c : Cfg} {colors : List Color} {s : State} (h : FramesSent c colors s) {e : TxEntry}
    (he : e ∈ s.trace) : ∃ col, e = okEntry c col := by
  rw [h.trace] at he
  obtain ⟨col, -, rfl⟩ := List.mem_map.1 he
  exact ⟨col, rfl⟩

theorem FramesSent.hostOut_eq {c : Cfg} {colors : List Color} {s : State} (h : FramesSent c colors s) :
    s.hostOut = List.replicate (s.trace.length + 1) .next := by
  rw [h.hostOut, h.trace, List.length_map]

/-! ### One colour and one answer by turns -/

theorem endless_colour (colors : Nat → Color) (n : Nat) :
    endless colors (2 * n + 1) = ⟨[colorMsg (colors n)], []⟩ := by
  simp [endless]

theorem endless_answer (colors : Nat → Color) (n : Nat) : endless colors (2 * n + 1 + 1) = ⟨[], [.ok]⟩ := by
  simp [endless, Nat.add_mod]

/-- Two steps send the next frame. -/
theorem AtFetch.exists_runIn_endless {c : Cfg} {before : List Color} {s t : State} {colors : Nat → Color} {n : Nat}
    (h : AtFetch c before t) (hc : c.wf = true) (hrun : runIn (endless colors) (2 * n + 1) s = .next t)
    (hi : t.inbox = []) (ha : t.replies = []) :
    ∃ v, runIn (endless colors) (2 * (n + 1) + 1) s = .next v ∧ AtFetch c (before ++ [colors n]) v ∧ v.inbox = [] ∧
      v.replies = [] := by
  obtain ⟨u, hu, hframe, hui, hua⟩ := (h.arrive ⟨[colorMsg (colors n)], []⟩).exists_step_colour hc
    (by rw [arrive_inbox, hi]; rfl)
  have hrunu : runIn (endless colors) (2 * n + 1 + 1) s = .next u := by
    rw [runIn_succ_of_next hrun, endless_colour]
    exact hu
  obtain ⟨v, hv, hfetch, hvi, hva⟩ := (hframe.arrive ⟨[], [.ok]⟩).exists_step_ok hc
    (by rw [arrive_replies, hua, arrive_replies, ha]; rfl)
  have hrunv : runIn (endless colors) (2 * n + 1 + 1 + 1) s = .next v := by
    rw [runIn_succ_of_next hrunu, endless_answer]
    exact hv
  exact ⟨v, hrunv, hfetch, by rw [hvi, arrive_inbox, hui]; rfl, hva⟩

/-- After `2 * n + 1` steps the frames of the first `n` colours have gone out, and nothing waits. -/
theorem exists_runIn_endless {colors : Nat → Color} {s : State} (hc : s.cfg.wf = true) (hp : s.phase = .idle)
    (hr : s.req = none) (hi : s.inbox = [⟨.write, encode (.write [] false)⟩]) (ha : s.replies = []) (n : Nat) :
    ∃ t, runIn (endless colors) (2 * n + 1) s = .next t ∧ AtFetch s.cfg ((List.range n).map colors) t ∧
      t.inbox = [] ∧ t.replies = [] := by
  induction n with
  | zero =>
    obtain ⟨t, ht, hfetch, hti, hta⟩ := exists_stepIn_start (endless colors 0) hc hp hr hi
    exact ⟨t, ht, hfetch, hti, by rw [hta, ha]; rfl⟩
  | succ n ih =>
    obtain ⟨t, hrun, hfetch, hti, hta⟩ := ih
    rw [List.range_succ, List.map_append]
    exact hfetch.exists_runIn_endless hc hrun hti hta

/-! ### The obligations -/

/-- Settles O59: `START` makes the `WRITE` endless, and arrivals and steps keep it so. -/
theorem endlessSequenceNeverEnds : Obligations.EndlessSequenceNeverEnds := by
  intro env colors s henv hc hp hr hi hok n
  have hrun : ∃ t, runIn env (n + 1) s = .next t ∧ Endless s.cfg t := by
    induction n with
    | zero => exact exists_stepIn_endless hc hp hr hi hok (henv.msgs 0) (henv.replies 0)
    | succ n ih =>
      obtain ⟨u, hu, hendless⟩ := ih
      rw [runIn_succ_of_next hu]
      exact (hendless.arrive (henv.msgs (n + 1)) (henv.replies (n + 1))).exists_step hc
  obtain ⟨t, ht, ⟨sent, hfetch | ⟨col, hframe⟩⟩, -, -⟩ := hrun
  · exact ⟨t, ht, .inl ⟨hfetch.phase, hfetch.req⟩, fun _ => hfetch.mem_trace, hfetch.hostOut_eq⟩
  · exact ⟨t, ht, .inr ⟨hframe.phase, col, hframe.req⟩, fun _ => hframe.mem_trace, hframe.hostOut_eq⟩

/-- Settles O60, by induction on the number of frames. -/
theorem endlessSequenceSendsEveryFrame : Obligations.EndlessSequenceSendsEveryFrame := by
  intro colors s hc hp hr hi ha n
  obtain ⟨t, ht, hfetch, -, -⟩ := exists_runIn_endless hc hp hr hi ha n
  refine ⟨t, ht, hfetch.phase, hfetch.req, ?_, ?_⟩
  · rw [hfetch.k, List.length_map, List.length_range]
  · rw [hfetch.trace, List.map_map]
    rfl

end Sys2Proof.Machine
end

section
/-! The transport and the wire (42_transport_and_wire.md R107 to R115): what a `TXWRITE` and its answer do, and the levels
of a colour frame and of the reset frame. -/

namespace Sys2Proof.Machine

/-! ### What an answer leaves unchanged -/

theorem advance_req {E : Type} (a : Answer E) (s : State E) : (advance a s).req = s.req := by
  obtain ⟨-, h⟩ | ⟨-, -, h⟩ | ⟨-, h⟩ := advance_cases a s <;> rw [h]
  · rw [enterFetch_req]
  · rw [deliverDone_req]

theorem advance_replies {E : Type} (a : Answer E) (s : State E) : (advance a s).replies = s.replies := by
  obtain ⟨-, h⟩ | ⟨-, -, h⟩ | ⟨-, h⟩ := advance_cases a s <;> rw [h]
  · rw [enterFetch_replies]
  · rw [deliverDone_replies]

/-! ### The levels of the frames (R113, R115) -/

theorem waveform_append (xs ys : List Byte) : waveform (xs ++ ys) = waveform xs ++ waveform ys :=
  List.flatMap_append

theorem shiftLevels_zero : shiftLevels 0x00#8 = List.replicate 8 .low := by decide

theorem waveform_zeros (n : Nat) : waveform (zeros n) = List.replicate (8 * n) .low := by
  rw [zeros, waveform, List.flatMap_replicate, shiftLevels_zero, List.flatten_replicate_replicate, Nat.mul_comm]

theorem waveform_specFrame_w4 {c : Cfg} (hc : c.width = .w4) (col : Color) : waveform (specFrame c col) =
    (bitsMsbFirst col.g ++ bitsMsbFirst col.r ++ bitsMsbFirst col.b).flatMap symbolLevels := by
  simp only [specFrame, waveform_append, waveform_row_w4 hc, List.flatMap_append]

/-- `PACK` always answers, and leaves the frame of its colour in `BUF` (R84). -/
theorem exec_pack (c : Color) (s : State) : exec (.pack c) s = .next { s with buf := specFrame s.cfg c } := by
  rw [← frame_eq_specFrame]
  rfl

/-! ### The obligations -/

/-- Settles O38: `PACK` leaves the three rows in `BUF`, each with four levels for each of its input bits, and a zero byte
is eight lows. -/
theorem frameWaveforms : Obligations.FrameWaveforms := by
  intro c s t hc h
  rw [exec_pack] at h
  cases h
  refine ⟨waveform_specFrame_w4 hc c, ?_, waveform_zeros s.cfg.nReset⟩
  rw [waveform_length, specFrame_length, Cfg.w, hc]
  rfl

/-- Settles O35: `TXWRITE` issues in whatever phase it finds. -/
theorem txwriteHandsTheBuffer : Obligations.TxwriteHandsTheBuffer :=
  fun _ _ hr => execTxwrite_eq_next.2 ⟨hr, rfl⟩

/-- Settles O36: the transport's side of an answer does all that is stated, and the sequencer's side, which alone depends
on the phase, keeps each of these fields. -/
theorem answerPutsBytesOnTheWire : Obligations.AnswerPutsBytesOnTheWire := by
  intro s bytes a rest hc hr ha
  refine ⟨_, step_answer hc hr ha, ?_, ?_, ?_, ?_, ?_, ?_⟩
  · rw [advance_replies, settle_replies]
  · rw [advance_req, settle_req]
  · rw [advance_trace, settle_trace]
  · rw [advance_res, settle_res]
  · rintro rfl
    rw [advance_wire, settle_wire, Reply.transmitted]
  · rintro e sent rfl
    rw [advance_wire, settle_wire, Reply.transmitted]

/-- Settles O37: the eight levels are listed in the order of the range, bit 7 first. -/
theorem shiftSendsBitSevenFirst : Obligations.ShiftSendsBitSevenFirst :=
  fun _ _ => rfl

end Sys2Proof.Machine
end

section
/-! `TransportFailure` (60_exceptions.md R121): the one exception there is, raised from the colour frame and from the reset
frame alike. -/

namespace Sys2Proof.Machine

/-- A failed request of the sequencer: the answer settled on the transport's side, then the failure raised (R121). -/
theorem step_transportFailure {s : State} {bytes : List Byte} {e : TransportError} {sent : Nat} {rest : List Reply}
    (hc : s.cfg.wf = true) (hp : s.phase = .txc ∨ s.phase = .txr) (hr : s.req = some bytes)
    (ha : s.replies = .err e sent :: rest) :
    step s = .next (raiseTransportFailure e (settle bytes (.err e sent) { s with replies := rest })) := by
  have hsettled : (settle bytes (.err e sent) { s with replies := rest }).phase = .txc ∨
      (settle bytes (.err e sent) { s with replies := rest }).phase = .txr := hp
  rw [step_answer hc hr ha, Reply.answer, advance_err hsettled]

/-- Settles O32: raising the failure adds the one event and moves to `IDLE`; settling the answer withdraws the request;
neither writes `CIN`, `BUF` or `K`. -/
theorem transportFailureLeavesTheRegisters : Obligations.TransportFailureLeavesTheRegisters := by
  intro s bytes e sent rest hc hp hr ha
  refine ⟨_, step_transportFailure hc hp hr ha, ?_, raiseTransportFailure_phase _ e, ?_, ?_, ?_, ?_⟩
  · rw [raiseTransportFailure_hostOut, settle_hostOut]
  · rw [raiseTransportFailure_req, settle_req]
  · rw [raiseTransportFailure_cin, settle_cin]
  · rw [raiseTransportFailure_buf, settle_buf]
  · rw [raiseTransportFailure_k, settle_k]

end Sys2Proof.Machine
end

section
/-! The durations of the frames in bit times (70_reset_and_hazards.md R156). -/

namespace Sys2Proof.Machine

/-- `n` zero bytes, of eight levels each, last at least 300 microseconds at the rate `f` exactly when
`3 * f ≤ 80000 * n` (C3). -/
theorem zeros_last_resetTime_iff (n f : Nat) :
    300 * f ≤ 1000000 * (waveform (zeros n)).length ↔ 3 * f ≤ 80000 * n := by
  rw [waveform_length, zeros_length]
  omega

/-- Settles O39: every byte is eight levels, a colour frame is `3 * W` bytes and the reset frame `N_RESET`; 140 zero bytes
allow `3 * f` up to 11200000. -/
theorem frameDurations : Obligations.FrameDurations := by
  intro c s t h
  rw [exec_pack] at h
  cases h
  refine ⟨?_, ?_, fun f => ?_⟩
  · rw [waveform_length, specFrame_length, ← Nat.mul_assoc]
  · rw [waveform_length, zeros_length]
  · rw [zeros_last_resetTime_iff]
    omega

end Sys2Proof.Machine
end
